-- ==== Sys2Proof/Word.lean ====
section
/-! DEFINITION. The words of the block: bytes, the two wider register widths, and times
(spec 00_scope.md R9, R10; 45_timing.md R220). -/

namespace Sys2Proof

/-- A byte, 8 bits (R51: "A byte is 8 bits"). -/
abbrev Byte := BitVec 8

/-- A 16-bit quantity: the CRC and the MBAP fields (R58). -/
abbrev Word16 := BitVec 16

/-- A 32-bit quantity: the transaction counter (R26). -/
abbrev Word32 := BitVec 32

/-- A byte string: a finite sequence of bytes, the first byte at index 0 (R10). -/
abbrev Bytes := List Byte

/-- A time: an exact rational number of microseconds (R220).
That a time is non-negative is checked where an operand enters (WellFormed.lean) and kept by the invariant. -/
abbrev Time := Rat

end Sys2Proof
end

