-- ==== Sys2Proof/Config.lean ====
section
/-! DEFINITION. What an implementation fixes: the one parameter the spec leaves OPEN (00_scope.md R7). -/

namespace Sys2Proof

/-- `HEX_LOWER_OK` (R7, D13, OPEN): whether ASCII decode accepts the lower-case digits `a` to `f`.
It has no body: a claim about the model holds for either value (DESIGN CHOICE, safe: notes/assumptions/6.md). -/
opaque Config.hexLowerOk : Bool

end Sys2Proof
end

