-- ==== Sys2Proof/Syntax.lean ====
section
/-! DEFINITION. What the host sends: the request record (30_encoding.md R70, R71) and the 31 operations it selects
(R72), which are this hardware's instructions. -/

namespace Sys2Proof

/-- One operand of a request record: a byte, a byte string, a natural number or a time (R71). -/
inductive Operand
  | byte (b : Byte)
  | bytes (S : Bytes)
  | nat (n : Nat)
  | time (t : Time)
  deriving DecidableEq, Repr

/-- A request: "a record of an 8-bit operation selector `op` followed by the operands of the operation's format"
(R70).  How the record travels is not specified (DESIGN CHOICE, safe: notes/assumptions/1.md). -/
structure Request where
  op       : Byte
  operands : List Operand
  deriving DecidableEq, Repr

/-- The nine operand formats of R71. -/
inductive Format
  | N | S | B | P | V | PS | PB | T | U
  deriving DecidableEq, Repr

/-- The 31 operations of the operation map (R72), one constructor a row of opcode_table.json. -/
inductive Instr
  -- CRC unit
  | crcNew
  | crcPush (bytes : Bytes)
  | crcValue
  -- LRC unit
  | lrcNew
  | lrcPush (bytes : Bytes)
  | lrcValue
  -- MBAP framer
  | mbapSetSlave (id : Byte)
  | mbapEncode (fc : Byte) (data : Bytes)
  | mbapDecode (adu : Bytes)
  | mbapVerify (req resp : Bytes)
  | mbapHdr (hdr : Bytes)
  -- RTU framer
  | rtuSetSlave (id : Byte)
  | rtuEncode (fc : Byte) (data : Bytes)
  | rtuDecode (adu : Bytes)
  | rtuVerify (req resp : Bytes)
  -- ASCII framer
  | asciiSetSlave (id : Byte)
  | asciiEncode (fc : Byte) (data : Bytes)
  | asciiDecode (adu : Bytes)
  | asciiVerify (req resp : Bytes)
  | asciiScan (stream : Bytes)
  -- RTU parser
  | rtupStart (slave fc : Byte) (deadline : Time)
  | rtupByte (b : Byte) (now : Time)
  | rtupTick (t : Time)
  -- timing unit
  | timSetBaud (n : Nat)
  | timChar
  | timT35
  | timMark (t : Time)
  | timPresend (t : Time)
  | timPostsend (n : Nat)
  | timRxtime (n : Nat)
  | timGap (t : Time)
  deriving DecidableEq, Repr

end Sys2Proof
end

