-- ==== Sys2Proof/WellFormed.lean ====
section
/-! DEFINITION. When an operation is well formed: every scalar operand lies in its type's range (30_encoding.md R71,
R73).  Bytes, byte strings and naturals are in range by their types; a time must be non-negative (45_timing.md R220). -/

namespace Sys2Proof

/-- "A time is a non-negative exact rational number of microseconds" (R220). -/
def timeInRange (t : Time) : Bool := decide (0 ≤ t)

/-- Every operand of the operation is in the range of its operand type (R71). -/
def wellFormed : Instr → Bool
  | .crcNew => true
  | .crcPush _ => true
  | .crcValue => true
  | .lrcNew => true
  | .lrcPush _ => true
  | .lrcValue => true
  | .mbapSetSlave _ => true
  | .mbapEncode _ _ => true
  | .mbapDecode _ => true
  | .mbapVerify _ _ => true
  | .mbapHdr _ => true
  | .rtuSetSlave _ => true
  | .rtuEncode _ _ => true
  | .rtuDecode _ => true
  | .rtuVerify _ _ => true
  | .asciiSetSlave _ => true
  | .asciiEncode _ _ => true
  | .asciiDecode _ => true
  | .asciiVerify _ _ => true
  | .asciiScan _ => true
  | .rtupStart _ _ deadline => timeInRange deadline
  | .rtupByte _ now => timeInRange now
  | .rtupTick t => timeInRange t
  | .timSetBaud _ => true
  | .timChar => true
  | .timT35 => true
  | .timMark t => timeInRange t
  | .timPresend t => timeInRange t
  | .timPostsend _ => true
  | .timRxtime _ => true
  | .timGap t => timeInRange t

end Sys2Proof
end

