-- ==== Sys2Proof/Decode.lean ====
section
/-! DEFINITION. The request decoder and encoder (30_encoding.md R70 to R74): from a request record to the operation it
selects, total on every record, and back. -/

namespace Sys2Proof

/-- Why a record selects no operation. -/
inductive DecodeError
  /-- The selector is not in the operation map (R73); the block answers `ILLEGAL_OP`. -/
  | reservedSelector
  /-- The operands are not those of the selector's format, or one is out of its type's range: the "malformed
  request" of R73, "which is outside this spec". -/
  | malformedOperands
  deriving DecidableEq, Repr

/-! The readers of the nine operand formats (R71), one each. -/

def readN (i : Instr) : List Operand → Option Instr
  | [] => some i
  | _ => none

def readS (mk : Byte → Instr) : List Operand → Option Instr
  | [.byte id] => some (mk id)
  | _ => none

def readB (mk : Bytes → Instr) : List Operand → Option Instr
  | [.bytes S] => some (mk S)
  | _ => none

def readP (mk : Byte → Bytes → Instr) : List Operand → Option Instr
  | [.byte fc, .bytes data] => some (mk fc data)
  | _ => none

def readV (mk : Bytes → Bytes → Instr) : List Operand → Option Instr
  | [.bytes req, .bytes resp] => some (mk req resp)
  | _ => none

def readPS (mk : Byte → Byte → Time → Instr) : List Operand → Option Instr
  | [.byte slave, .byte fc, .time deadline] => some (mk slave fc deadline)
  | _ => none

def readPB (mk : Byte → Time → Instr) : List Operand → Option Instr
  | [.byte b, .time now] => some (mk b now)
  | _ => none

def readT (mk : Time → Instr) : List Operand → Option Instr
  | [.time t] => some (mk t)
  | _ => none

def readU (mk : Nat → Instr) : List Operand → Option Instr
  | [.nat n] => some (mk n)
  | _ => none

/-- One row of the operation map (R72): selector, mnemonic, format, and the reader of its operands. -/
structure OpRow where
  op       : Byte
  mnemonic : String
  format   : Format
  read     : List Operand → Option Instr

def crcRows : List OpRow :=
  [ ⟨0x00, "CRC.NEW", .N, readN .crcNew⟩,
    ⟨0x01, "CRC.PUSH", .B, readB .crcPush⟩,
    ⟨0x02, "CRC.VALUE", .N, readN .crcValue⟩ ]

def lrcRows : List OpRow :=
  [ ⟨0x10, "LRC.NEW", .N, readN .lrcNew⟩,
    ⟨0x11, "LRC.PUSH", .B, readB .lrcPush⟩,
    ⟨0x12, "LRC.VALUE", .N, readN .lrcValue⟩ ]

def mbapRows : List OpRow :=
  [ ⟨0x20, "MBAP.SETSLAVE", .S, readS .mbapSetSlave⟩,
    ⟨0x21, "MBAP.ENCODE", .P, readP .mbapEncode⟩,
    ⟨0x22, "MBAP.DECODE", .B, readB .mbapDecode⟩,
    ⟨0x23, "MBAP.VERIFY", .V, readV .mbapVerify⟩,
    ⟨0x24, "MBAP.HDR", .B, readB .mbapHdr⟩ ]

def rtuRows : List OpRow :=
  [ ⟨0x30, "RTU.SETSLAVE", .S, readS .rtuSetSlave⟩,
    ⟨0x31, "RTU.ENCODE", .P, readP .rtuEncode⟩,
    ⟨0x32, "RTU.DECODE", .B, readB .rtuDecode⟩,
    ⟨0x33, "RTU.VERIFY", .V, readV .rtuVerify⟩ ]

def asciiRows : List OpRow :=
  [ ⟨0x40, "ASCII.SETSLAVE", .S, readS .asciiSetSlave⟩,
    ⟨0x41, "ASCII.ENCODE", .P, readP .asciiEncode⟩,
    ⟨0x42, "ASCII.DECODE", .B, readB .asciiDecode⟩,
    ⟨0x43, "ASCII.VERIFY", .V, readV .asciiVerify⟩,
    ⟨0x44, "ASCII.SCAN", .B, readB .asciiScan⟩ ]

def rtupRows : List OpRow :=
  [ ⟨0x50, "RTUP.START", .PS, readPS .rtupStart⟩,
    ⟨0x51, "RTUP.BYTE", .PB, readPB .rtupByte⟩,
    ⟨0x52, "RTUP.TICK", .T, readT .rtupTick⟩ ]

def timRows : List OpRow :=
  [ ⟨0x60, "TIM.SETBAUD", .U, readU .timSetBaud⟩,
    ⟨0x61, "TIM.CHAR", .N, readN .timChar⟩,
    ⟨0x62, "TIM.T35", .N, readN .timT35⟩,
    ⟨0x63, "TIM.MARK", .T, readT .timMark⟩,
    ⟨0x64, "TIM.PRESEND", .T, readT .timPresend⟩,
    ⟨0x65, "TIM.POSTSEND", .U, readU .timPostsend⟩,
    ⟨0x66, "TIM.RXTIME", .U, readU .timRxtime⟩,
    ⟨0x67, "TIM.GAP", .T, readT .timGap⟩ ]

/-- The operation map (R72): "These 31 operations are all the block has." -/
def opMap : List OpRow :=
  crcRows ++ lrcRows ++ mbapRows ++ rtuRows ++ asciiRows ++ rtupRows ++ timRows

/-- The row a selector selects; none for a reserved selector (R73). -/
def rowOf (op : Byte) : Option OpRow := opMap.find? (fun row => row.op == op)

/-- The decoder: "The selector alone fixes the format" (R74), so the row is found first, then the operands are read.
A reserved selector is reported whatever its operands are. -/
def decode (r : Request) : Except DecodeError Instr :=
  match rowOf r.op with
  | none => .error .reservedSelector
  | some row =>
    match row.read r.operands with
    | none => .error .malformedOperands
    | some i => if wellFormed i then .ok i else .error .malformedOperands

/-- The encoder: the selector of R72 followed by the operands in the order of R71. -/
def encode : Instr → Request
  | .crcNew => ⟨0x00, []⟩
  | .crcPush S => ⟨0x01, [.bytes S]⟩
  | .crcValue => ⟨0x02, []⟩
  | .lrcNew => ⟨0x10, []⟩
  | .lrcPush S => ⟨0x11, [.bytes S]⟩
  | .lrcValue => ⟨0x12, []⟩
  | .mbapSetSlave id => ⟨0x20, [.byte id]⟩
  | .mbapEncode fc data => ⟨0x21, [.byte fc, .bytes data]⟩
  | .mbapDecode adu => ⟨0x22, [.bytes adu]⟩
  | .mbapVerify req resp => ⟨0x23, [.bytes req, .bytes resp]⟩
  | .mbapHdr hdr => ⟨0x24, [.bytes hdr]⟩
  | .rtuSetSlave id => ⟨0x30, [.byte id]⟩
  | .rtuEncode fc data => ⟨0x31, [.byte fc, .bytes data]⟩
  | .rtuDecode adu => ⟨0x32, [.bytes adu]⟩
  | .rtuVerify req resp => ⟨0x33, [.bytes req, .bytes resp]⟩
  | .asciiSetSlave id => ⟨0x40, [.byte id]⟩
  | .asciiEncode fc data => ⟨0x41, [.byte fc, .bytes data]⟩
  | .asciiDecode adu => ⟨0x42, [.bytes adu]⟩
  | .asciiVerify req resp => ⟨0x43, [.bytes req, .bytes resp]⟩
  | .asciiScan stream => ⟨0x44, [.bytes stream]⟩
  | .rtupStart slave fc deadline => ⟨0x50, [.byte slave, .byte fc, .time deadline]⟩
  | .rtupByte b now => ⟨0x51, [.byte b, .time now]⟩
  | .rtupTick t => ⟨0x52, [.time t]⟩
  | .timSetBaud n => ⟨0x60, [.nat n]⟩
  | .timChar => ⟨0x61, []⟩
  | .timT35 => ⟨0x62, []⟩
  | .timMark t => ⟨0x63, [.time t]⟩
  | .timPresend t => ⟨0x64, [.time t]⟩
  | .timPostsend n => ⟨0x65, [.nat n]⟩
  | .timRxtime n => ⟨0x66, [.nat n]⟩
  | .timGap t => ⟨0x67, [.time t]⟩

/-! Words of opcode_table.json.  The table numbers the eight bits of the selector and gives the operands no bits, so a
table word stands for its selector followed by zero operands. -/

/-- The operands of a format with every bit zero: zero bytes, empty byte strings, zero naturals and times. -/
def zeroOperands : Format → List Operand
  | .N => []
  | .S => [.byte 0]
  | .B => [.bytes []]
  | .P => [.byte 0, .bytes []]
  | .V => [.bytes [], .bytes []]
  | .PS => [.byte 0, .byte 0, .time 0]
  | .PB => [.byte 0, .time 0]
  | .T => [.time 0]
  | .U => [.nat 0]

/-- The request of a table word: its selector, and zero operands in the selector's format (none for a reserved one). -/
def tableRequest (op : Byte) : Request :=
  ⟨op, match rowOf op with
       | none => []
       | some row => zeroOperands row.format⟩

/-- The operation the decoder reads from a table word of `nbits` bits (every bit above them zero).  A word with a bit
above the selector set is no word of the table: the table gives the operands no bits. -/
def decodeTableWord (nbits w : Nat) : Option Instr :=
  if w % 2 ^ nbits < 256 then
    match decode (tableRequest (BitVec.ofNat 8 (w % 2 ^ nbits))) with
    | .ok i => some i
    | .error _ => none
  else none

end Sys2Proof
end

