-- ==== Sys2Proof/Machine/State.lean ====
section
/-! DEFINITION. The state of the block (10_state.md R23), its answers (30_encoding.md R70, 60_exceptions.md R251), the
host's two ends of the request interface, and the state after reset (70_reset_and_hazards.md R281). -/

namespace Sys2Proof.Machine

open Sys2Proof

/-- The state of the RTU parser, `PST` (R30): the five states of the source and the three rest states. -/
inductive PState
  | idle
  | slaveId
  | functionCode
  | readLength
  | readPayload
  | crc
  | done
  | failed
  deriving DecidableEq, Repr

/-- The status of an answer, one constructor a row of the status table (R251). -/
inductive Status
  | ok
  -- outcomes (R252)
  | headerLength
  | invalidLength
  | checksumMismatch
  | asciiBoundary
  | txidMismatch (got expected : Word16)
  | protoidMismatch
  | unitidMismatch
  | slaveidMismatch
  | deadlineExceeded
  | unexpectedFc
  | lengthMismatch
  | frameTooShort
  | hexInvalid
  -- refusals (R253)
  | illegalOp
  | uninit
  | pduTooLong
  | operandTooLong
  | badOperand
  | unsupportedFc
  | parserNotActive
  deriving DecidableEq, Repr

/-- Why `ASCII.SCAN` cut the stream where it did (R181): `CRLF`, `MAXSIZE`, `END`. -/
inductive ScanReason
  | crlf
  | maxSize
  | streamEnd
  deriving DecidableEq, Repr

/-- The class `TIM.GAP` gives a silence (R231): 0 `IN_FRAME`, 1 `GAP_VIOLATION`, 2 `FRAME_GAP`. -/
inductive GapClass
  | inFrame
  | gapViolation
  | frameGap
  deriving DecidableEq, Repr

/-- The results an `OK` answer carries (R70), by the operation that returns them. -/
inductive Results
  /-- No results: `return OK()`. -/
  | none
  /-- `CRC.VALUE` (R112). -/
  | crcValue (value : Word16)
  /-- `LRC.VALUE` (R120). -/
  | lrcValue (value : Byte)
  /-- `MBAP.ENCODE` (R132): the frame and its transaction ID. -/
  | mbapAdu (adu : Bytes) (tx : Word16)
  /-- `RTU.ENCODE` (R152) and `ASCII.ENCODE` (R172). -/
  | adu (adu : Bytes)
  /-- The three `DECODE` operations (R135, R154, R175). -/
  | pdu (fc : Byte) (data : Bytes)
  /-- `MBAP.HDR` (R139): the bytes still to be read. -/
  | bodyLen (n : Nat)
  /-- `ASCII.SCAN` (R181). -/
  | scanned (frame : Bytes) (reason : ScanReason)
  /-- `RTUP.BYTE` with `done = false` (R192). -/
  | parsing
  /-- `RTUP.BYTE` with `done = true` and the frame (R192). -/
  | parsed (frame : Bytes)
  /-- `RTUP.TICK` (R193): the time remaining. -/
  | remaining (t : Time)
  /-- The duration of `TIM.CHAR`, `TIM.T35`, `TIM.PRESEND`, `TIM.POSTSEND`, `TIM.RXTIME` (R225 to R230). -/
  | duration (d : Time)
  /-- `TIM.GAP` (R231). -/
  | gap (c : GapClass)
  deriving DecidableEq, Repr

/-- An answer: a status, and the results when the status is `OK` (R70).  The information a status carries is in the
status itself (R250). -/
structure Answer where
  status  : Status
  results : Results
  deriving DecidableEq, Repr

/-- The fourteen state elements of the block (R23): "a model's state type has exactly these fields and no other". -/
structure Block where
  /-- `CRC`, the CRC-16 accumulator (R24). -/
  crc     : Option Word16
  /-- `SUM`, the LRC accumulator (R25). -/
  sum     : Option Byte
  /-- `TXC`, the MBAP transaction counter (R26). -/
  txc     : Word32
  /-- `SLAVE_M`, the MBAP framer's unit identifier (R27). -/
  slaveM  : Option Byte
  /-- `SLAVE_R`, the RTU framer's slave identifier (R28). -/
  slaveR  : Option Byte
  /-- `SLAVE_A`, the ASCII framer's slave identifier (R29). -/
  slaveA  : Option Byte
  /-- `PST`, the RTU parser's state (R30). -/
  pst     : PState
  /-- `PSLAVE`, the slave identifier the parser expects (R31). -/
  pslave  : Byte
  /-- `PFC`, the function code the parser expects (R31). -/
  pfc     : Byte
  /-- `PBUF`, the bytes the parser has accepted (R32). -/
  pbuf    : Bytes
  /-- `PREM`, the bytes still to be consumed in the current parser state (R32). -/
  prem    : Nat
  /-- `PDL`, the parser's absolute deadline (R32). -/
  pdl     : Time
  /-- `BAUD`, the baud rate in bits per second (R33). -/
  baud    : Option Nat
  /-- `LAST_ACT`, the time of the last bus activity (R34). -/
  lastAct : Option Time
  deriving DecidableEq, Repr

/-- The machine: the block, and the two ends of its request interface.  The two fields are the model's own
(DESIGN CHOICE, safe: notes/assumptions/2.md and 3.md), not state elements of the block. -/
structure State extends Block where
  /-- The requests the host has issued and the block has not yet performed, oldest first: the host issues operations
  one after another and the model "takes the sequence of operations as a list" (R63). -/
  requests : List Request
  /-- The answer the host received to the last operation; none before the first.  No operation reads it (R22). -/
  answer   : Option Answer
  deriving DecidableEq, Repr

/-- Why the machine stops with a fault. -/
inductive Fault
  /-- Raised by `step` alone, for a request whose operands do not fit its selector's format or are out of range: "on
  real wires it would be a malformed request, which is outside this spec" (R73).  Safe: the hardware's behaviour there
  is unknown and nothing is proved of it (DESIGN CHOICE: notes/assumptions/7.md). -/
  | malformedRequest
  deriving DecidableEq, Repr

/-- Why the machine gives an operation no meaning. -/
inductive Refusal
  /-- Raised by an arm of `exec` that has no meaning yet.  Safe.  No arm raises it: all 31 operations are modelled. -/
  | notModelled (mnemonic : String)
  deriving DecidableEq, Repr

/-- The block after reset (R37, R281).  `PSLAVE`, `PFC`, `PDL` are "unspecified and unreadable" there; the model holds
zero in them (DESIGN CHOICE, unsafe: notes/assumptions/5.md). -/
def Block.reset : Block where
  crc := none
  sum := none
  txc := 0
  slaveM := none
  slaveR := none
  slaveA := none
  pst := .idle
  pslave := 0
  pfc := 0
  pbuf := []
  prem := 0
  pdl := 0
  baud := none
  lastAct := none

/-- The machine right after reset: the block reset, no request issued and none answered (R280, R281). -/
def State.reset : State := { Block.reset with requests := [], answer := none }

end Sys2Proof.Machine
end

