-- ==== Sys2Proof/Machine/Flags.lean ====
section
/-! DEFINITION. The block has no flags (10_state.md R22): what stands in their place is the status of an answer.  This
file holds the status codes (60_exceptions.md R251 to R253), the class codes of `TIM.GAP` (R231), and which operation
can return which status (R256). -/

namespace Sys2Proof.Machine

open Sys2Proof

/-- The 8-bit code of a status (R251). -/
def Status.code : Status → Byte
  | .ok => 0x00
  | .headerLength => 0x01
  | .invalidLength => 0x02
  | .checksumMismatch => 0x03
  | .asciiBoundary => 0x04
  | .txidMismatch _ _ => 0x05
  | .protoidMismatch => 0x06
  | .unitidMismatch => 0x07
  | .slaveidMismatch => 0x08
  | .deadlineExceeded => 0x09
  | .unexpectedFc => 0x0A
  | .lengthMismatch => 0x0B
  | .frameTooShort => 0x0C
  | .hexInvalid => 0x0D
  | .illegalOp => 0x80
  | .uninit => 0x81
  | .pduTooLong => 0x82
  | .operandTooLong => 0x83
  | .badOperand => 0x84
  | .unsupportedFc => 0x85
  | .parserNotActive => 0x86

/-- The name of a status as R251 writes it. -/
def Status.name : Status → String
  | .ok => "OK"
  | .headerLength => "HEADER_LENGTH"
  | .invalidLength => "INVALID_LENGTH"
  | .checksumMismatch => "CHECKSUM_MISMATCH"
  | .asciiBoundary => "ASCII_BOUNDARY"
  | .txidMismatch _ _ => "TXID_MISMATCH"
  | .protoidMismatch => "PROTOID_MISMATCH"
  | .unitidMismatch => "UNITID_MISMATCH"
  | .slaveidMismatch => "SLAVEID_MISMATCH"
  | .deadlineExceeded => "DEADLINE_EXCEEDED"
  | .unexpectedFc => "UNEXPECTED_FC"
  | .lengthMismatch => "LENGTH_MISMATCH"
  | .frameTooShort => "FRAME_TOO_SHORT"
  | .hexInvalid => "HEX_INVALID"
  | .illegalOp => "ILLEGAL_OP"
  | .uninit => "UNINIT"
  | .pduTooLong => "PDU_TOO_LONG"
  | .operandTooLong => "OPERAND_TOO_LONG"
  | .badOperand => "BAD_OPERAND"
  | .unsupportedFc => "UNSUPPORTED_FC"
  | .parserNotActive => "PARSER_NOT_ACTIVE"

/-- An outcome: it "says something about the data the block was given" (R252); "Codes 0x01 to 0x7F" (R251). -/
def Status.isOutcome (st : Status) : Bool := 0x01 ≤ st.code && st.code ≤ 0x7F

/-- A refusal: it "says that the host misused the block" (R253); "codes 0x80 to 0xFF" (R251). -/
def Status.isRefusal (st : Status) : Bool := 0x80 ≤ st.code

/-- A status after which the parser is in `FAILED`: "the four parser statuses" of R255. -/
def Status.failsParser : Status → Bool
  | .deadlineExceeded | .unexpectedFc | .unsupportedFc | .invalidLength => true
  | .ok | .headerLength | .checksumMismatch | .asciiBoundary | .txidMismatch _ _ | .protoidMismatch
  | .unitidMismatch | .slaveidMismatch | .lengthMismatch | .frameTooShort | .hexInvalid | .illegalOp | .uninit
  | .pduTooLong | .operandTooLong | .badOperand | .parserNotActive => false

/-- The number `TIM.GAP` returns for a class (R231). -/
def GapClass.code : GapClass → Nat
  | .inFrame => 0
  | .gapViolation => 1
  | .frameGap => 2

/-- The codes of the statuses other than `OK` an operation can return, in the order it tests them (R256). -/
def statusCodes : Instr → List Byte
  | .crcNew | .lrcNew => []
  | .crcPush _ | .crcValue | .lrcPush _ | .lrcValue => [Status.uninit.code]
  | .mbapSetSlave _ | .rtuSetSlave _ | .asciiSetSlave _ => []
  | .mbapEncode _ _ | .rtuEncode _ _ | .asciiEncode _ _ => [Status.pduTooLong.code, Status.uninit.code]
  | .mbapDecode _ => [Status.operandTooLong.code, Status.frameTooShort.code, Status.lengthMismatch.code]
  | .mbapVerify _ _ =>
    [Status.operandTooLong.code, Status.badOperand.code, Status.frameTooShort.code, (Status.txidMismatch 0 0).code,
      Status.protoidMismatch.code, Status.unitidMismatch.code]
  | .mbapHdr _ => [Status.badOperand.code, Status.headerLength.code]
  | .rtuDecode _ => [Status.operandTooLong.code, Status.frameTooShort.code, Status.checksumMismatch.code]
  | .rtuVerify _ _ =>
    [Status.operandTooLong.code, Status.badOperand.code, Status.frameTooShort.code, Status.slaveidMismatch.code]
  | .asciiDecode _ =>
    [Status.operandTooLong.code, Status.frameTooShort.code, Status.asciiBoundary.code, Status.hexInvalid.code,
      Status.checksumMismatch.code]
  | .asciiVerify _ _ =>
    [Status.operandTooLong.code, Status.badOperand.code, Status.frameTooShort.code, Status.asciiBoundary.code,
      Status.slaveidMismatch.code]
  | .asciiScan _ => []
  | .rtupStart _ _ _ => []
  | .rtupByte _ _ =>
    [Status.parserNotActive.code, Status.deadlineExceeded.code, Status.unsupportedFc.code, Status.unexpectedFc.code,
      Status.invalidLength.code]
  | .rtupTick _ => [Status.parserNotActive.code, Status.deadlineExceeded.code]
  | .timSetBaud _ | .timMark _ => [Status.badOperand.code]
  | .timChar | .timT35 | .timPresend _ | .timPostsend _ | .timRxtime _ | .timGap _ => [Status.uninit.code]

end Sys2Proof.Machine
end

