-- ==== Sys2Proof/Machine/Operands.lean ====
section
/-! DEFINITION. Byte-string operands: the constants of 00_scope.md R6, indexing (R10, 30_encoding.md R78), byte order
(20_memory.md R52, R53) and the hexadecimal character code (30_encoding.md R95 to R97). -/

namespace Sys2Proof.Machine

open Sys2Proof

/-! ## The constants the source fixes (R6) -/

abbrev pduDataMax : Nat := 252
abbrev mbapMax : Nat := 260
abbrev rtuMax : Nat := 256
abbrev asciiMax : Nat := 513
abbrev mbapHdrLen : Nat := 7
abbrev mbapLenMax : Nat := 254
abbrev rtuMin : Nat := 4
abbrev rtuExcLen : Nat := 5
abbrev rtuCountMax : Nat := 251
abbrev asciiMin : Nat := 9
abbrev mbapProto : Word16 := 0x0000
/-- `:`, the start character ASCII encode writes and ASCII verify accepts (R97). -/
abbrev charColon : Byte := 0x3A
/-- `>`, the second start character ASCII verify accepts (R97). -/
abbrev charGt : Byte := 0x3E
abbrev charCr : Byte := 0x0D
abbrev charLf : Byte := 0x0A

/-! ## Indexing a byte string (R10) -/

/-- `S[i]`.  Every operation checks the length before it indexes (R78); outside the string the model reads 0
(DESIGN CHOICE, safe: notes/assumptions/13.md). -/
def byteAt (S : Bytes) (i : Nat) : Byte := S.getD i 0

/-- `S[i..j]`, both ends included, "the empty string when `j < i`" (R10). -/
def slice (S : Bytes) (i j : Nat) : Bytes := (S.drop i).take (j + 1 - i)

/-! ## Bytes and 16-bit values (R9, R52, R53) -/

/-- `v[7:0]` -/
def lo8 (v : Word16) : Byte := v.extractLsb' 0 8

/-- `v[15:8]` -/
def hi8 (v : Word16) : Byte := v.extractLsb' 8 8

/-- Two bytes in wire order, the more significant first (R9, R52). -/
def u16be (h l : Byte) : Word16 := h ++ l

/-- Two bytes in wire order, the less significant first (R9, R53). -/
def u16le (l h : Byte) : Word16 := h ++ l

/-! ## Hexadecimal characters (R14, R95, R96) -/

/-- The ASCII code of `"0123456789ABCDEF"[n]` (R14, R95), for a nibble `n`. -/
def hexchar (n : BitVec 4) : Byte :=
  if n.toNat ≤ 9 then BitVec.ofNat 8 (0x30 + n.toNat) else BitVec.ofNat 8 (0x41 + (n.toNat - 10))

/-- `[hexchar(b[7:4]), hexchar(b[3:0])]` (R95): the high nibble first. -/
def hex2 (b : Byte) : Bytes := [hexchar (b.extractLsb' 4 4), hexchar (b.extractLsb' 0 4)]

/-- `hex2` of each byte in turn (R14). -/
def hexstr (S : Bytes) : Bytes := S.flatMap hex2

/-- The digit value of a character, none when it is no accepted digit (R96). -/
def unhex1 (lowerOk : Bool) (c : Byte) : Option Byte :=
  if 0x30 ≤ c ∧ c ≤ 0x39 then some (c - 0x30)
  else if 0x41 ≤ c ∧ c ≤ 0x46 then some (c - 0x41 + 10)
  else if 0x61 ≤ c ∧ c ≤ 0x66 then (if lowerOk then some (c - 0x61 + 10) else none)
  else none

/-- `unhex1(c)·16 + unhex1(d)`, none when either digit is invalid (R96). -/
def unhex2 (lowerOk : Bool) (c d : Byte) : Option Byte :=
  match unhex1 lowerOk c, unhex1 lowerOk d with
  | some h, some l => some (h * 16 + l)
  | _, _ => none

/-- The bytes of successive pairs of characters, none as soon as a pair is invalid (the loop of R175). -/
def unhexPairs (lowerOk : Bool) : Bytes → Option Bytes
  | c :: d :: rest =>
    match unhex2 lowerOk c d with
    | none => none
    | some v => (unhexPairs lowerOk rest).map (v :: ·)
  | _ => some []

end Sys2Proof.Machine
end

