-- ==== Sys2Proof/Machine/Ops.lean ====
section
/-! DEFINITION. The operations every meaning is built from: how an operation ends (00_scope.md R12, R13,
60_exceptions.md R250, R255, R265), the checksum and time functions (40_checksum.md, 45_timing.md), and taking the
host's next request (20_memory.md R62, R63). -/

namespace Sys2Proof.Machine

open Sys2Proof

/-- What a meaning answers. -/
abbrev Out := Host.Outcome State Fault Refusal

/-! ## How an operation ends -/

/-- The state with the given answer delivered to the host. -/
def State.answered (s : State) (a : Answer) : State := { s with answer := some a }

/-- `return OK(results)` (R12): the state `s` the operation has written, and the answer. -/
def reply (r : Results) (s : State) : Out := .next (s.answered ⟨.ok, r⟩)

/-- `raise STATUS(info)` (R12, R265): "the operation stops at its `raise`, … the answer carries the status"; every state
element is as it was before (R255).  This is the block's only exception mechanism, and there is no return from it
(R266): the next operation is simply performed. -/
def raise (st : Status) (s : State) : Out := .next (s.answered ⟨st, .none⟩)

/-- The one exception to R255 (R192): the parser's failing statuses set `PST <- FAILED` "and change nothing else". -/
def failParser (st : Status) (s : State) : Out := raise st { s with pst := .failed }

/-- "every rule that needs the value first tests `is_none` and raises `UNINIT`" (R13). -/
def need {α : Type} (element : Option α) (s : State) (use : α → Out) : Out :=
  match element with
  | none => raise .uninit s
  | some v => use v

/-! ## CRC-16 (R111, R113) -/

/-- `CRC_POLY` and `CRC_INIT` (R6). -/
abbrev crcPoly : Word16 := 0xA001
abbrev crcInit : Word16 := 0xFFFF

/-- One of the eight rounds of R111: shift right by one, XOR the polynomial when the bit shifted out was 1.
The spec gives this procedure from general knowledge (UNVERIFIED, unsafe: notes/assumptions/8.md). -/
def crcBit (c : Word16) : Word16 :=
  if c.getLsbD 0 then (c >>> 1) ^^^ crcPoly else c >>> 1

/-- The body of the outer loop of R111 for one byte: "the byte enters bits 7..0", then eight rounds. -/
def crcStep (c : Word16) (b : Byte) : Word16 := crcBit^[8] (c ^^^ b.setWidth 16)

/-- The accumulator after the bytes of `S`, "in order, first byte first" (R111). -/
def crcFold (c : Word16) (S : Bytes) : Word16 := S.foldl crcStep c

/-- `crc16(S) = fold(step, 0xFFFF, S)` (R113). -/
def crc16 (S : Bytes) : Word16 := crcFold crcInit S

/-! ## LRC (R119 to R121) -/

/-- "sum = (sum + byte) mod 256" for each byte in order (R119). -/
def lrcFold (sum : Byte) (S : Bytes) : Byte := S.foldl (· + ·) sum

/-- `(256 - SUM) mod 256` (R120). -/
def lrcNeg (sum : Byte) : Byte := BitVec.ofNat 8 ((256 - sum.toNat) % 256)

/-- `lrc8(S)`, what `LRC.VALUE` returns after `LRC.NEW` and `LRC.PUSH S` (R121). -/
def lrc8 (S : Bytes) : Byte := lrcNeg (lrcFold 0 S)

/-! ## Times (R222 to R224) -/

/-- `BAUD_KNEE` and `T35_FIXED` (R6). -/
abbrev baudKnee : Nat := 19200
abbrev t35Fixed : Time := 1750

/-- The character duration, `11000000 / B` microseconds, exact (R222); 0 for the excluded rate 0 (DESIGN CHOICE, unsafe in that
unreachable state: notes/assumptions/19.md). -/
def charUs (B : Nat) : Time := 11000000 / (B : Rat)

/-- T3.5: `ceil(35000000 / B)` microseconds if `B ≤ 19200`, otherwise 1750 (R223). -/
def t35Us (B : Nat) : Time := if B ≤ baudKnee then ((⌈35000000 / (B : Rat)⌉ : Int) : Rat) else t35Fixed

/-- T1.5: one and a half character durations, at every baud rate (R224). -/
def t15Us (B : Nat) : Time := 3 / 2 * charUs B

/-! ## The host's requests (R62, R63, R73) -/

/-- The next request and the state with it taken from the queue; none when the host has issued none. -/
def takeRequest (s : State) : Option (Request × State) :=
  match s.requests with
  | [] => none
  | r :: rest => some (r, { s with requests := rest })

/-- The state with a request put first in the queue: the one the next step performs. -/
def placeRequest (r : Request) (s : State) : State := { s with requests := r :: s.requests }

/-- "A request with a reserved selector is answered with the refusal `ILLEGAL_OP` and changes no state" (R73). -/
def illegalOp (s : State) : Out := raise .illegalOp s

/-- A request that is not well formed, "outside this spec" (R73). -/
def malformed : Out := .fault .malformedRequest

end Sys2Proof.Machine
end

