-- ==== Sys2Proof/Machine/Ascii.lean ====
section
/-! DEFINITION. The ASCII framer: `ASCII.SETSLAVE`, `ASCII.ENCODE`, `ASCII.DECODE`, `ASCII.VERIFY`, `ASCII.SCAN`
(43_ascii_framer.md R171 to R181; frame format 30_encoding.md R85).  Its LRC is the pure function `lrc8`: the register
`SUM` is not touched (10_state.md R35). -/

namespace Sys2Proof.Machine

open Sys2Proof

/-- The frame R172 builds (format R85): `:`, the body in upper-case hexadecimal, the LRC of its binary bytes, CR LF. -/
def asciiFrame (slave fc : Byte) (data : Bytes) : Bytes :=
  let body := [slave, fc] ++ data
  [charColon] ++ hexstr body ++ hex2 (lrc8 body) ++ [charCr, charLf]

/-- The end of R175 on the decoded bytes `bin` (`m = |bin|`): check the LRC, then surface function code and data. -/
def asciiPdu (bin : Bytes) (s : State) : Out :=
  if lrc8 (slice bin 0 (bin.length - 2)) ≠ byteAt bin (bin.length - 1) then raise .checksumMismatch s
  else reply (.pdu (byteAt bin 1) (slice bin 2 (bin.length - 2))) s

/-- `ASCII.DECODE` (R175) for a given value of the parameter `HEX_LOWER_OK`. -/
def asciiDecodeWith (lowerOk : Bool) (adu : Bytes) (s : State) : Out :=
  if adu.length > asciiMax then raise .operandTooLong s
  else if adu.length < asciiMin then raise .frameTooShort s
  else if (adu.length - 1) % 2 ≠ 0 then raise .asciiBoundary s
  else match unhexPairs lowerOk (slice adu 1 (adu.length - 3)) with
    | none => raise .hexInvalid s
    | some bin => asciiPdu bin s

/-- The number of characters of a stream up to and including its first CR LF; none when it has none. -/
def crlfEnd : Bytes → Option Nat
  | a :: b :: rest => if a = charCr ∧ b = charLf then some 2 else (crlfEnd (b :: rest)).map (· + 1)
  | _ => none

/-- `ASCII.SETSLAVE` (R171). -/
def execAsciiSetSlave (id : Byte) (s : State) : Out := reply .none { s with slaveA := some id }

/-- `ASCII.ENCODE` (R172). -/
def execAsciiEncode (fc : Byte) (data : Bytes) (s : State) : Out :=
  if data.length > pduDataMax then raise .pduTooLong s
  else need s.slaveA s fun slave => reply (.adu (asciiFrame slave fc data)) s

/-- `ASCII.DECODE` (R175): it reads the parameter `HEX_LOWER_OK` (R170). -/
def execAsciiDecode (adu : Bytes) (s : State) : Out := asciiDecodeWith Config.hexLowerOk adu s

/-- `ASCII.VERIFY` (R178): the checks in the order the source lists them; the slave echo compares characters. -/
def execAsciiVerify (req resp : Bytes) (s : State) : Out :=
  if req.length > asciiMax ∨ resp.length > asciiMax then raise .operandTooLong s
  else if req.length < 3 then raise .badOperand s
  else if resp.length < asciiMin then raise .frameTooShort s
  else if (resp.length - 1) % 2 ≠ 0 then raise .asciiBoundary s
  else if byteAt resp 0 ≠ charColon ∧ byteAt resp 0 ≠ charGt then raise .asciiBoundary s
  else if byteAt resp (resp.length - 2) ≠ charCr ∨ byteAt resp (resp.length - 1) ≠ charLf then raise .asciiBoundary s
  else if byteAt resp 1 ≠ byteAt req 1 ∨ byteAt resp 2 ≠ byteAt req 2 then raise .slaveidMismatch s
  else reply .none s

/-- `ASCII.SCAN` (R181): the loop looks at the first `min(|stream|, 513)` characters. -/
def execAsciiScan (stream : Bytes) (s : State) : Out :=
  match crlfEnd (stream.take asciiMax) with
  | some n => reply (.scanned (stream.take n) .crlf) s
  | none =>
    if stream.length ≥ asciiMax then reply (.scanned (stream.take asciiMax) .maxSize) s
    else reply (.scanned stream .streamEnd) s

end Sys2Proof.Machine
end

