-- ==== Sys2Proof/Machine/Crc.lean ====
section
/-! DEFINITION. The CRC unit: `CRC.NEW`, `CRC.PUSH`, `CRC.VALUE` (40_checksum.md R110 to R112). -/

namespace Sys2Proof.Machine

open Sys2Proof

/-- `CRC.NEW` (R110): "initial 0xFFFF". -/
def execCrcNew (s : State) : Out := reply .none { s with crc := some crcInit }

/-- `CRC.PUSH` (R111): fold a string of bytes into the CRC. -/
def execCrcPush (bytes : Bytes) (s : State) : Out :=
  need s.crc s fun c => reply .none { s with crc := some (crcFold c bytes) }

/-- `CRC.VALUE` (R112): read the CRC; it is not changed. -/
def execCrcValue (s : State) : Out := need s.crc s fun c => reply (.crcValue c) s

end Sys2Proof.Machine
end

