-- ==== Sys2Proof/Machine/Lrc.lean ====
section
/-! DEFINITION. The LRC unit: `LRC.NEW`, `LRC.PUSH`, `LRC.VALUE` (40_checksum.md R118 to R120). -/

namespace Sys2Proof.Machine

open Sys2Proof

/-- `LRC.NEW` (R118). -/
def execLrcNew (s : State) : Out := reply .none { s with sum := some 0 }

/-- `LRC.PUSH` (R119): add a string of bytes to the sum; the carry out of bit 7 is discarded. -/
def execLrcPush (bytes : Bytes) (s : State) : Out :=
  need s.sum s fun v => reply .none { s with sum := some (lrcFold v bytes) }

/-- `LRC.VALUE` (R120): the two's complement of the sum; the sum is not changed. -/
def execLrcValue (s : State) : Out := need s.sum s fun v => reply (.lrcValue (lrcNeg v)) s

end Sys2Proof.Machine
end

