-- ==== Sys2Proof/Machine/Mbap.lean ====
section
/-! DEFINITION. The MBAP framer: `MBAP.SETSLAVE`, `MBAP.ENCODE`, `MBAP.DECODE`, `MBAP.VERIFY`, `MBAP.HDR`
(41_mbap_framer.md R131 to R139; frame format 30_encoding.md R81, R82). -/

namespace Sys2Proof.Machine

open Sys2Proof

/-- The fields of an MBAP frame, big-endian (R82). -/
def mbapTxId (adu : Bytes) : Word16 := u16be (byteAt adu 0) (byteAt adu 1)
def mbapProtoId (adu : Bytes) : Word16 := u16be (byteAt adu 2) (byteAt adu 3)
def mbapLength (adu : Bytes) : Word16 := u16be (byteAt adu 4) (byteAt adu 5)
def mbapUnitId (adu : Bytes) : Byte := byteAt adu 6

/-- The frame R132 builds (format R81): transaction ID, protocol ID, length `2 + |data|`, unit, function code, data. -/
def mbapFrame (tx : Word16) (unit fc : Byte) (data : Bytes) : Bytes :=
  let len : Word16 := BitVec.ofNat 16 (2 + data.length)
  [hi8 tx, lo8 tx, hi8 mbapProto, lo8 mbapProto, hi8 len, lo8 len, unit, fc] ++ data

/-- `MBAP.SETSLAVE` (R131). -/
def execMbapSetSlave (id : Byte) (s : State) : Out := reply .none { s with slaveM := some id }

/-- `MBAP.ENCODE` (R132): the counter is incremented before its low 16 bits are taken. -/
def execMbapEncode (fc : Byte) (data : Bytes) (s : State) : Out :=
  if data.length > pduDataMax then raise .pduTooLong s
  else need s.slaveM s fun unit =>
    let t := s.txc + 1
    let tx : Word16 := t.extractLsb' 0 16
    reply (.mbapAdu (mbapFrame tx unit fc data) tx) { s with txc := t }

/-- `MBAP.DECODE` (R135): the length field is compared as an integer, with no wrap-around. -/
def execMbapDecode (adu : Bytes) (s : State) : Out :=
  if adu.length > mbapMax then raise .operandTooLong s
  else if adu.length < 8 then raise .frameTooShort s
  else if ((mbapLength adu).toNat : Int) - 1 ≠ (adu.length : Int) - 7 then raise .lengthMismatch s
  else reply (.pdu (byteAt adu 7) (slice adu 8 (adu.length - 1))) s

/-- `MBAP.VERIFY` (R137): the three identity comparisons in the order the source lists them. -/
def execMbapVerify (req resp : Bytes) (s : State) : Out :=
  if req.length > mbapMax ∨ resp.length > mbapMax then raise .operandTooLong s
  else if req.length < mbapHdrLen then raise .badOperand s
  else if resp.length < mbapHdrLen then raise .frameTooShort s
  else if mbapTxId resp ≠ mbapTxId req then raise (.txidMismatch (mbapTxId resp) (mbapTxId req)) s
  else if mbapProtoId resp ≠ mbapProtoId req then raise .protoidMismatch s
  else if mbapUnitId resp ≠ mbapUnitId req then raise .unitidMismatch s
  else reply .none s

/-- `MBAP.HDR` (R139): the bytes of the frame that remain after its 7-byte header. -/
def execMbapHdr (hdr : Bytes) (s : State) : Out :=
  if hdr.length ≠ mbapHdrLen then raise .badOperand s
  else if (mbapLength hdr).toNat = 0 ∨ (mbapLength hdr).toNat > mbapLenMax then raise .headerLength s
  else reply (.bodyLen ((mbapLength hdr).toNat - 1)) s

end Sys2Proof.Machine
end

