-- ==== Sys2Proof/Machine/Parser.lean ====
section
/-! DEFINITION. The RTU incremental response parser: `RTUP.START`, `RTUP.BYTE`, `RTUP.TICK` (44_rtu_parser.md R191 to
R202; function codes 30_encoding.md R90). -/

namespace Sys2Proof.Machine

open Sys2Proof

/-- The payload layout a function code selects (R90, R196). -/
inductive Layout
  /-- Read family: one byte count, then that many bytes. -/
  | counted
  /-- A fixed number of payload bytes. -/
  | fixed (n : Nat)
  deriving DecidableEq, Repr

/-- The eleven function codes with a layout (R90, R196); none for every other code (R198). -/
def layoutOf (fc : Byte) : Option Layout :=
  if fc ∈ [0x01, 0x02, 0x03, 0x04, 0x17, 0x18] then some .counted
  else if fc ∈ [0x05, 0x06, 0x0F, 0x10] then some (.fixed 4)
  else if fc = 0x16 then some (.fixed 6)
  else none

/-- The answer of `RTUP.BYTE` when no status was raised (R192): `done = true` with the frame in `DONE`, else
`done = false`. -/
def replyParse (s : State) : Out :=
  if s.pst = .done then reply (.parsed s.pbuf) s else reply .parsing s

/-- State `SLAVE_ID` (R195): any byte but the requested slave identifier is discarded. -/
def inSlaveId (b : Byte) (s : State) : Out :=
  if b = s.pslave then replyParse { s with pbuf := [b], pst := .functionCode } else replyParse s

/-- State `FUNCTION_CODE` (R196 to R198): the expected code by its layout, its exception form, or a framing error. -/
def inFunctionCode (b : Byte) (s : State) : Out :=
  if b = s.pfc then
    match layoutOf s.pfc with
    | some .counted => replyParse { s with pbuf := s.pbuf ++ [b], pst := .readLength }
    | some (.fixed n) => replyParse { s with pbuf := s.pbuf ++ [b], prem := n, pst := .readPayload }
    | none => failParser .unsupportedFc s
  else if b = s.pfc ||| 0x80 then replyParse { s with pbuf := s.pbuf ++ [b], prem := 1, pst := .readPayload }
  else failParser .unexpectedFc s

/-- State `READ_LENGTH` (R199): the byte count, 1 to 251. -/
def inReadLength (b : Byte) (s : State) : Out :=
  if 1 ≤ b.toNat ∧ b.toNat ≤ rtuCountMax then
    replyParse { s with pbuf := s.pbuf ++ [b], prem := b.toNat, pst := .readPayload }
  else failParser .invalidLength s

/-- State `READ_PAYLOAD` (R200): one payload byte; after the last, the two CRC bytes are awaited. -/
def inReadPayload (b : Byte) (s : State) : Out :=
  if s.prem - 1 = 0 then replyParse { s with pbuf := s.pbuf ++ [b], prem := 2, pst := .crc }
  else replyParse { s with pbuf := s.pbuf ++ [b], prem := s.prem - 1 }

/-- State `CRC` (R201): the two bytes are appended unexamined; the second completes the frame. -/
def inCrc (b : Byte) (s : State) : Out :=
  if s.prem - 1 = 0 then replyParse { s with pbuf := s.pbuf ++ [b], prem := 0, pst := .done }
  else replyParse { s with pbuf := s.pbuf ++ [b], prem := s.prem - 1 }

/-- A parse is in progress: `PST` is none of `IDLE`, `DONE`, `FAILED` (R192, R202). -/
def PState.working : PState → Bool
  | .idle | .done | .failed => false
  | .slaveId | .functionCode | .readLength | .readPayload | .crc => true

/-- `RTUP.START` (R191): it succeeds from every state and abandons a parse in progress.  It
clears `PREM` too (DEDUCED, unsafe: notes/assumptions/18.md). -/
def execRtupStart (slave fc : Byte) (deadline : Time) (s : State) : Out :=
  reply .none { s with pslave := slave, pfc := fc, pdl := deadline, pbuf := [], prem := 0, pst := .slaveId }

/-- `RTUP.BYTE` (R192): "A byte that arrives exactly at the deadline (`now = PDL`) is accepted". -/
def execRtupByte (b : Byte) (now : Time) (s : State) : Out :=
  if s.pst.working then
    if now > s.pdl then failParser .deadlineExceeded s
    else match s.pst with
      | .slaveId => inSlaveId b s
      | .functionCode => inFunctionCode b s
      | .readLength => inReadLength b s
      | .readPayload => inReadPayload b s
      | .crc => inCrc b s
      | .idle | .done | .failed => raise .parserNotActive s
  else raise .parserNotActive s

/-- `RTUP.TICK` (R193): test the deadline; a parse in time is not changed. -/
def execRtupTick (t : Time) (s : State) : Out :=
  if s.pst.working then
    if t > s.pdl then failParser .deadlineExceeded s else reply (.remaining (s.pdl - t)) s
  else raise .parserNotActive s

end Sys2Proof.Machine
end

