-- ==== Sys2Proof/Machine/Rtu.lean ====
section
/-! DEFINITION. The RTU framer: `RTU.SETSLAVE`, `RTU.ENCODE`, `RTU.DECODE`, `RTU.VERIFY` (42_rtu_framer.md R151 to
R156; frame format 30_encoding.md R83).  Its CRC is the pure function `crc16`: the register `CRC` is not touched
(10_state.md R35). -/

namespace Sys2Proof.Machine

open Sys2Proof

/-- The frame R152 builds (format R83): slave, function code, data, then the CRC, "low byte first". -/
def rtuFrame (slave fc : Byte) (data : Bytes) : Bytes :=
  let body := [slave, fc] ++ data
  body ++ [lo8 (crc16 body), hi8 (crc16 body)]

/-- The CRC a frame carries in its last two bytes, low byte first (R53, R114). -/
def rtuCrcField (adu : Bytes) : Word16 := u16le (byteAt adu (adu.length - 2)) (byteAt adu (adu.length - 1))

/-- `RTU.SETSLAVE` (R151). -/
def execRtuSetSlave (id : Byte) (s : State) : Out := reply .none { s with slaveR := some id }

/-- `RTU.ENCODE` (R152). -/
def execRtuEncode (fc : Byte) (data : Bytes) (s : State) : Out :=
  if data.length > pduDataMax then raise .pduTooLong s
  else need s.slaveR s fun slave => reply (.adu (rtuFrame slave fc data)) s

/-- `RTU.DECODE` (R154): the CRC is computed over everything before its two bytes. -/
def execRtuDecode (adu : Bytes) (s : State) : Out :=
  if adu.length > rtuMax then raise .operandTooLong s
  else if adu.length < rtuMin then raise .frameTooShort s
  else if rtuCrcField adu ≠ crc16 (slice adu 0 (adu.length - 3)) then raise .checksumMismatch s
  else reply (.pdu (byteAt adu 1) (slice adu 2 (adu.length - 3))) s

/-- `RTU.VERIFY` (R156): the minimum size, then the slave echo; no CRC (R157). -/
def execRtuVerify (req resp : Bytes) (s : State) : Out :=
  if req.length > rtuMax ∨ resp.length > rtuMax then raise .operandTooLong s
  else if req.length < 1 then raise .badOperand s
  else if resp.length < rtuMin then raise .frameTooShort s
  else if byteAt resp 0 ≠ byteAt req 0 then raise .slaveidMismatch s
  else reply .none s

end Sys2Proof.Machine
end

