-- ==== Sys2Proof/Machine/Timing.lean ====
section
/-! DEFINITION. The timing unit: `TIM.SETBAUD`, `TIM.CHAR`, `TIM.T35`, `TIM.MARK`, `TIM.PRESEND`, `TIM.POSTSEND`,
`TIM.RXTIME`, `TIM.GAP` (45_timing.md R221 to R231). -/

namespace Sys2Proof.Machine

open Sys2Proof

/-- `TIM.SETBAUD` (R221). -/
def execTimSetBaud (n : Nat) (s : State) : Out :=
  if n = 0 then raise .badOperand s else reply .none { s with baud := some n }

/-- `TIM.CHAR` (R225). -/
def execTimChar (s : State) : Out := need s.baud s fun B => reply (.duration (charUs B)) s

/-- `TIM.T35` (R226). -/
def execTimT35 (s : State) : Out := need s.baud s fun B => reply (.duration (t35Us B)) s

/-- `TIM.MARK` (R227): refused when `t` is earlier than the recorded time; equal is accepted. -/
def execTimMark (t : Time) (s : State) : Out :=
  match s.lastAct with
  | none => reply .none { s with lastAct := some t }
  | some last => if t < last then raise .badOperand s else reply .none { s with lastAct := some t }

/-- `TIM.PRESEND` (R228): the wait until `LAST_ACT + 2·T3.5`, zero when no activity is recorded. -/
def execTimPresend (t : Time) (s : State) : Out :=
  need s.baud s fun B =>
    match s.lastAct with
    | none => reply (.duration 0) s
    | some last =>
      if t ≥ last + 2 * t35Us B then reply (.duration 0) s
      else reply (.duration (last + 2 * t35Us B - t)) s

/-- `TIM.POSTSEND` (R229): `n * char_us(BAUD) + t35_us(BAUD)`. -/
def execTimPostsend (n : Nat) (s : State) : Out :=
  need s.baud s fun B => reply (.duration ((n : Rat) * charUs B + t35Us B)) s

/-- `TIM.RXTIME` (R230): `n * char_us(BAUD) * 5 / 2`. -/
def execTimRxtime (n : Nat) (s : State) : Out :=
  need s.baud s fun B => reply (.duration ((n : Rat) * charUs B * 5 / 2)) s

/-- `TIM.GAP` (R231): a silence of exactly T1.5 is in the frame, one of exactly T3.5 ends it. -/
def execTimGap (t : Time) (s : State) : Out :=
  need s.baud s fun B =>
    if t ≤ t15Us B then reply (.gap .inFrame) s
    else if t < t35Us B then reply (.gap .gapViolation) s
    else reply (.gap .frameGap) s

end Sys2Proof.Machine
end

