-- ==== Sys2Proof/Machine/Dispatch.lean ====
section
/-! DEFINITION. One arm per operation of the operation map (30_encoding.md R72). -/

namespace Sys2Proof.Machine

def exec (i : Instr) (s : State) : Host.Outcome State Fault Refusal :=
  match i with
  | .crcNew => Sys2Proof.Machine.execCrcNew s
  | .crcPush bytes => Sys2Proof.Machine.execCrcPush bytes s
  | .crcValue => Sys2Proof.Machine.execCrcValue s
  | .lrcNew => Sys2Proof.Machine.execLrcNew s
  | .lrcPush bytes => Sys2Proof.Machine.execLrcPush bytes s
  | .lrcValue => Sys2Proof.Machine.execLrcValue s
  | .mbapSetSlave id => Sys2Proof.Machine.execMbapSetSlave id s
  | .mbapEncode fc data => Sys2Proof.Machine.execMbapEncode fc data s
  | .mbapDecode adu => Sys2Proof.Machine.execMbapDecode adu s
  | .mbapVerify req resp => Sys2Proof.Machine.execMbapVerify req resp s
  | .mbapHdr hdr => Sys2Proof.Machine.execMbapHdr hdr s
  | .rtuSetSlave id => Sys2Proof.Machine.execRtuSetSlave id s
  | .rtuEncode fc data => Sys2Proof.Machine.execRtuEncode fc data s
  | .rtuDecode adu => Sys2Proof.Machine.execRtuDecode adu s
  | .rtuVerify req resp => Sys2Proof.Machine.execRtuVerify req resp s
  | .asciiSetSlave id => Sys2Proof.Machine.execAsciiSetSlave id s
  | .asciiEncode fc data => Sys2Proof.Machine.execAsciiEncode fc data s
  | .asciiDecode adu => Sys2Proof.Machine.execAsciiDecode adu s
  | .asciiVerify req resp => Sys2Proof.Machine.execAsciiVerify req resp s
  | .asciiScan stream => Sys2Proof.Machine.execAsciiScan stream s
  | .rtupStart slave fc deadline => Sys2Proof.Machine.execRtupStart slave fc deadline s
  | .rtupByte b now => Sys2Proof.Machine.execRtupByte b now s
  | .rtupTick t => Sys2Proof.Machine.execRtupTick t s
  | .timSetBaud n => Sys2Proof.Machine.execTimSetBaud n s
  | .timChar => Sys2Proof.Machine.execTimChar s
  | .timT35 => Sys2Proof.Machine.execTimT35 s
  | .timMark t => Sys2Proof.Machine.execTimMark t s
  | .timPresend t => Sys2Proof.Machine.execTimPresend t s
  | .timPostsend n => Sys2Proof.Machine.execTimPostsend n s
  | .timRxtime n => Sys2Proof.Machine.execTimRxtime n s
  | .timGap t => Sys2Proof.Machine.execTimGap t s

end Sys2Proof.Machine
end

