-- ==== Sys2Proof/Machine/Step.lean ====
section
/-! DEFINITION. One step of the machine: the block performs the host's next request, to completion (20_memory.md R58,
R62), or does nothing when there is none (60_exceptions.md R263). -/

namespace Sys2Proof.Machine

open Sys2Proof

/-- One step.  With no request pending nothing happens: "Nothing happens in the block between operations" (R263;
DEDUCED, safe: notes/assumptions/4.md). -/
def step (s : State) : Host.Outcome State Fault Refusal :=
  match takeRequest s with
  | none => .next s
  | some (r, s') =>
    match decode r with
    | .ok i => exec i s'
    | .error .reservedSelector => illegalOp s'
    | .error .malformedOperands => malformed

/-- `s` with a table word issued as the host's next request: its selector, and zero operands in its format
(DESIGN CHOICE, safe: notes/assumptions/2.md and 15.md). -/
def State.withFetchWord (s : State) (nbits w : Nat) : State :=
  placeRequest (tableRequest (BitVec.ofNat 8 (w % 2 ^ nbits))) s

end Sys2Proof.Machine
end

