-- ==== Sys2Proof/Machine/Pseudo.lean ====
section
/-! DEFINITION. Sequences of operations (20_memory.md R62) and the four pseudo-operations (30_encoding.md R76):
shorthands of the host for such sequences, with no selector of their own. -/

namespace Sys2Proof.Machine

open Sys2Proof

/-- Perform one operation, then go on from its state; a stop stops the sequence. -/
def andThen (o : Out) (next : State → Out) : Out :=
  match o with
  | .next s => next s
  | .fault f => .fault f
  | .refused r => .refused r

/-- A sequence of operations, each performed to completion before the next: "the state after a sequence of operations is
the fold of the operations' rules over the sequence" (R62). -/
def performAll : List Instr → State → Out
  | [], s => .next s
  | i :: rest, s => andThen (exec i s) (performAll rest)

/-- The host reads the answer and goes on only when its status is `OK`. -/
def ifOk (next : State → Out) (s : State) : Out :=
  match s.answer with
  | some ⟨.ok, _⟩ => next s
  | _ => .next s

/-- `CRC16 S`: `CRC.NEW`; `CRC.PUSH S`; `CRC.VALUE`. -/
def pseudoCrc16 (S : Bytes) (s : State) : Out :=
  andThen (exec .crcNew s) fun s1 => andThen (exec (.crcPush S) s1) (exec .crcValue)

/-- `LRC8 S`: `LRC.NEW`; `LRC.PUSH S`; `LRC.VALUE`. -/
def pseudoLrc8 (S : Bytes) (s : State) : Out :=
  andThen (exec .lrcNew s) fun s1 => andThen (exec (.lrcPush S) s1) (exec .lrcValue)

/-- `RTU.CHECK req, resp`: `RTU.VERIFY req, resp`; if OK then `RTU.DECODE resp`. -/
def pseudoRtuCheck (req resp : Bytes) (s : State) : Out :=
  andThen (exec (.rtuVerify req resp) s) (ifOk (exec (.rtuDecode resp)))

/-- `ASCII.CHECK req, resp`: `ASCII.VERIFY req, resp`; if OK then `ASCII.DECODE resp`. -/
def pseudoAsciiCheck (req resp : Bytes) (s : State) : Out :=
  andThen (exec (.asciiVerify req resp) s) (ifOk (exec (.asciiDecode resp)))

end Sys2Proof.Machine
end

