-- ==== Sys2Proof/Safety.lean ====
section
/-! DEFINITION. What the statements speak of: the invariants of the state (10_state.md R38), the table of which operation
reads and writes which element (R23), and sequences of operations (20_memory.md R62). -/

namespace Sys2Proof.Machine

open Sys2Proof

/-! ## Invariants -/

/-- The invariants of R38, clause by clause. -/
def Block.Legal (b : Block) : Prop :=
  b.pbuf.length ≤ 256 ∧
  (b.pst = .slaveId → b.pbuf = []) ∧
  (b.pst = .functionCode → b.pbuf.length = 1 ∧ b.pbuf[0]? = some b.pslave) ∧
  (b.pst = .readLength → b.pbuf.length = 2 ∧ b.pbuf[1]? = some b.pfc) ∧
  (b.pst = .readPayload → 1 ≤ b.prem ∧ b.prem ≤ 251) ∧
  (b.pst = .crc → 1 ≤ b.prem ∧ b.prem ≤ 2) ∧
  (b.pst = .done → 5 ≤ b.pbuf.length ∧ b.pbuf.length ≤ 256 ∧ b.pbuf[0]? = some b.pslave ∧
    (b.pbuf[1]? = some b.pfc ∨ b.pbuf[1]? = some (b.pfc ||| 0x80))) ∧
  (∀ n, b.baud = some n → 1 ≤ n)

/-- The parser's buffer starts with the slave identifier and the function code or its exception form. -/
def Block.Headed (b : Block) : Prop :=
  ∃ fc rest, b.pbuf = b.pslave :: fc :: rest ∧ (fc = b.pfc ∨ fc = b.pfc ||| 0x80)

/-- The parser's part of the invariant every step keeps: R38, and what it rests on (R205): the bytes still to come fit
the 256-byte frame, and a frame in progress has its header. -/
def Block.ParserInv (b : Block) : Prop :=
  match b.pst with
  | .idle => b.pbuf = []
  | .slaveId => b.pbuf = []
  | .functionCode => b.pbuf = [b.pslave]
  | .readLength => b.pbuf = [b.pslave, b.pfc]
  | .readPayload => 1 ≤ b.prem ∧ b.prem ≤ 251 ∧ b.Headed ∧ b.pbuf.length + b.prem + 2 ≤ 256
  | .crc => 1 ≤ b.prem ∧ b.prem ≤ 2 ∧ b.Headed ∧ 5 ≤ b.pbuf.length + b.prem ∧ b.pbuf.length + b.prem ≤ 256
  | .done => b.Headed ∧ 5 ≤ b.pbuf.length ∧ b.pbuf.length ≤ 256
  | .failed => b.pbuf.length ≤ 256

/-- The timing unit's part: a baud rate is positive (R33, R38) and every stored time is non-negative (R220). -/
def Block.TimesInv (b : Block) : Prop :=
  0 ≤ b.pdl ∧ (∀ n, b.baud = some n → 1 ≤ n) ∧ (∀ t, b.lastAct = some t → 0 ≤ t)

/-- The invariant every step keeps. -/
def State.Inv (s : State) : Prop := s.toBlock.ParserInv ∧ s.toBlock.TimesInv

/-- No request for the selector `op` waits (the queue of requests is the model's own: notes/assumptions/2.md). -/
def State.NonePending (s : State) (op : Byte) : Prop := ∀ r ∈ s.requests, r.op ≠ op

/-! ## The elements and who touches them -/

/-- The fourteen elements of R23. -/
inductive Elem
  | crc | sum | txc | slaveM | slaveR | slaveA | pst | pslave | pfc | pbuf | prem | pdl | baud | lastAct
  deriving DecidableEq, Repr

/-- Two blocks hold the same in an element. -/
def Block.Agree (a b : Block) : Elem → Prop
  | .crc => a.crc = b.crc
  | .sum => a.sum = b.sum
  | .txc => a.txc = b.txc
  | .slaveM => a.slaveM = b.slaveM
  | .slaveR => a.slaveR = b.slaveR
  | .slaveA => a.slaveA = b.slaveA
  | .pst => a.pst = b.pst
  | .pslave => a.pslave = b.pslave
  | .pfc => a.pfc = b.pfc
  | .pbuf => a.pbuf = b.pbuf
  | .prem => a.prem = b.prem
  | .pdl => a.pdl = b.pdl
  | .baud => a.baud = b.baud
  | .lastAct => a.lastAct = b.lastAct

/-- The column "written by" of R23, read by operation.  `RTUP.START` writes `PREM` too, by its own rule R191, though
R23's row of `PREM` does not list it (notes/assumptions/18.md). -/
def writes : Instr → List Elem
  | .crcNew | .crcPush _ => [.crc]
  | .lrcNew | .lrcPush _ => [.sum]
  | .mbapEncode _ _ => [.txc]
  | .mbapSetSlave _ => [.slaveM]
  | .rtuSetSlave _ => [.slaveR]
  | .asciiSetSlave _ => [.slaveA]
  | .rtupStart _ _ _ => [.pst, .pslave, .pfc, .pbuf, .prem, .pdl]
  | .rtupByte _ _ => [.pst, .pbuf, .prem]
  | .rtupTick _ => [.pst]
  | .timSetBaud _ => [.baud]
  | .timMark _ => [.lastAct]
  | .crcValue | .lrcValue | .mbapDecode _ | .mbapVerify _ _ | .mbapHdr _ | .rtuEncode _ _ | .rtuDecode _
  | .rtuVerify _ _ | .asciiEncode _ _ | .asciiDecode _ | .asciiVerify _ _ | .asciiScan _ | .timChar | .timT35
  | .timPresend _ | .timPostsend _ | .timRxtime _ | .timGap _ => []

/-- The column "read by" of R23, read by operation. -/
def reads : Instr → List Elem
  | .crcPush _ | .crcValue => [.crc]
  | .lrcPush _ | .lrcValue => [.sum]
  | .mbapEncode _ _ => [.txc, .slaveM]
  | .rtuEncode _ _ => [.slaveR]
  | .asciiEncode _ _ => [.slaveA]
  | .rtupStart _ _ _ => [.pst]
  | .rtupByte _ _ => [.pst, .pslave, .pfc, .pbuf, .prem, .pdl]
  | .rtupTick _ => [.pst, .pdl]
  | .timMark _ => [.lastAct]
  | .timPresend _ => [.baud, .lastAct]
  | .timChar | .timT35 | .timPostsend _ | .timRxtime _ | .timGap _ => [.baud]
  | .crcNew | .lrcNew | .mbapSetSlave _ | .mbapDecode _ | .mbapVerify _ _ | .mbapHdr _ | .rtuSetSlave _
  | .rtuDecode _ | .rtuVerify _ _ | .asciiSetSlave _ | .asciiDecode _ | .asciiVerify _ _ | .asciiScan _
  | .timSetBaud _ => []

/-! ## Words of the statements -/

/-- The operation ended with `return OK(r)` in the state `s`. -/
abbrev nextOk (s : State) (r : Results) : Out := .next { s with answer := some ⟨.ok, r⟩ }

/-- The operation ended with `raise st` in the state `s`. -/
abbrev nextRaised (st : Status) (s : State) : Out := .next { s with answer := some ⟨st, .none⟩ }

/-- R111's inner loop on integers: halve, and XOR the polynomial when the bit shifted out was 1. -/
def natCrcRound (c : Nat) : Nat := if c % 2 = 1 then (c / 2) ^^^ 0xA001 else c / 2

/-- R111's outer loop on integers: every byte XORed in, then eight rounds. -/
def natCrc (c : Nat) (S : Bytes) : Nat := S.foldl (fun c b => natCrcRound^[8] (c ^^^ b.toNat)) c

/-- The sum of the bytes of a string, as an integer. -/
def byteSum (S : Bytes) : Nat := (S.map BitVec.toNat).sum

/-- The sixteen upper-case digits of R95, in order. -/
def hexDigits : Bytes :=
  [0x30, 0x31, 0x32, 0x33, 0x34, 0x35, 0x36, 0x37, 0x38, 0x39, 0x41, 0x42, 0x43, 0x44, 0x45, 0x46]

/-- A byte string as upper-case hexadecimal characters, high nibble first (R95). -/
def hexOf (S : Bytes) : Bytes :=
  S.flatMap fun b => [hexDigits.getD (b.toNat / 16) 0, hexDigits.getD (b.toNat % 16) 0]

/-- A character is an accepted hexadecimal digit (R96). -/
def IsHexDigit (lowerOk : Bool) (c : Byte) : Prop :=
  (0x30 ≤ c.toNat ∧ c.toNat ≤ 0x39) ∨ (0x41 ≤ c.toNat ∧ c.toNat ≤ 0x46) ∨
    (lowerOk = true ∧ 0x61 ≤ c.toNat ∧ c.toNat ≤ 0x66)

/-- A lower-case hexadecimal digit as its upper-case one, every other character as it is. -/
def upperHex (c : Byte) : Byte := if 0x61 ≤ c.toNat ∧ c.toNat ≤ 0x66 then c - 0x20 else c

/-- CR at `k - 1` and LF at `k` (R181). -/
def CrlfAt (S : Bytes) (k : Nat) : Prop := 1 ≤ k ∧ S[k - 1]? = some 0x0D ∧ S[k]? = some 0x0A

/-- `d` is the character duration at `B` baud: `d = 11·10⁶ / B` (R222). -/
def IsCharTime (B : Nat) (d : Time) : Prop := d * B = 11000000

/-- `d` is T3.5 at `B` baud: the least whole number of microseconds not below `35·10⁶ / B` up to 19200 baud, 1750
above (R223). -/
def IsT35 (B : Nat) (d : Time) : Prop :=
  (B ≤ 19200 → ∃ k : Nat, d = k ∧ 35000000 ≤ k * B ∧ ∀ j : Nat, 35000000 ≤ j * B → k ≤ j) ∧
    (19200 < B → d = 1750)

/-- The eleven function codes with a payload layout (R90). -/
def readFamily : List Byte := [0x01, 0x02, 0x03, 0x04, 0x17, 0x18]
def writeFamily : List Byte := [0x05, 0x06, 0x0F, 0x10]

/-- What may follow the function code `fc` and precede the CRC in a response to it (R90). -/
def PayloadOf (fc : Byte) (p : Bytes) : Prop :=
  (fc ∈ readFamily ∧ ∃ (L : Byte) (rest : Bytes), p = L :: rest ∧ 1 ≤ L.toNat ∧ L.toNat ≤ 251 ∧ rest.length = L.toNat) ∨
    (fc ∈ writeFamily ∧ p.length = 4) ∨ (fc = 0x16 ∧ p.length = 6)

/-- The operations that give the parser the bytes of a string, each with its time of arrival. -/
def feed (frame : Bytes) (times : List Time) : List Instr := List.zipWith Instr.rtupByte frame times

/-- The operations that need an element some other operation must have written first (R284). -/
def needsInit : Instr → Bool
  | .crcPush _ | .crcValue | .lrcPush _ | .lrcValue | .mbapEncode _ _ | .rtuEncode _ _ | .asciiEncode _ _
  | .rtupByte _ _ | .rtupTick _ | .timChar | .timT35 | .timPresend _ | .timPostsend _ | .timRxtime _
  | .timGap _ => true
  | .crcNew | .lrcNew | .mbapSetSlave _ | .mbapDecode _ | .mbapVerify _ _ | .mbapHdr _ | .rtuSetSlave _
  | .rtuDecode _ | .rtuVerify _ _ | .asciiSetSlave _ | .asciiDecode _ | .asciiVerify _ _ | .asciiScan _
  | .rtupStart _ _ _ | .timSetBaud _ | .timMark _ => false

/-- The operations of R59 that change no state. -/
def changesNothing : Instr → Bool
  | .crcValue | .lrcValue | .mbapDecode _ | .mbapVerify _ _ | .mbapHdr _ | .rtuEncode _ _ | .rtuDecode _
  | .rtuVerify _ _ | .asciiEncode _ _ | .asciiDecode _ | .asciiVerify _ _ | .asciiScan _ | .timChar | .timT35
  | .timPresend _ | .timPostsend _ | .timRxtime _ | .timGap _ => true
  | .crcNew | .crcPush _ | .lrcNew | .lrcPush _ | .mbapSetSlave _ | .mbapEncode _ _ | .rtuSetSlave _
  | .asciiSetSlave _ | .rtupStart _ _ _ | .rtupByte _ _ | .rtupTick _ | .timSetBaud _ | .timMark _ => false

/-- The operations of R59 that change state and are idempotent. -/
def idempotent : Instr → Bool
  | .crcNew | .lrcNew | .mbapSetSlave _ | .rtuSetSlave _ | .asciiSetSlave _ | .timSetBaud _ | .timMark _
  | .rtupStart _ _ _ => true
  | .crcPush _ | .crcValue | .lrcPush _ | .lrcValue | .mbapEncode _ _ | .mbapDecode _ | .mbapVerify _ _ | .mbapHdr _
  | .rtuEncode _ _ | .rtuDecode _ | .rtuVerify _ _ | .asciiEncode _ _ | .asciiDecode _ | .asciiVerify _ _
  | .asciiScan _ | .rtupByte _ _ | .rtupTick _ | .timChar | .timT35 | .timPresend _ | .timPostsend _ | .timRxtime _
  | .timGap _ => false

end Sys2Proof.Machine
end

