-- ==== Sys2Proof/Certificates/Slice0/Obligations.lean ====
section
/-! DEFINITION. The statements for the provers.  Each docstring names the rules of spec/ it formalises, or says what it is
derived from. -/

open Sys2Proof Sys2Proof.Machine

/-! ## Reset, steps, decoding -/

/-- R37: after reset every element has the value of R23's "reset" column; and `PSLAVE`, `PFC` and `PDL`, which have none
there, are unreadable: whatever they hold, every operation gives the same answer. -/
def Obligations.ResetHoldsTheSpecsValues : Prop :=
  State.reset.crc = none ∧ State.reset.sum = none ∧ State.reset.txc = 0 ∧ State.reset.slaveM = none ∧
    State.reset.slaveR = none ∧ State.reset.slaveA = none ∧ State.reset.pst = .idle ∧ State.reset.pbuf = [] ∧
    State.reset.prem = 0 ∧ State.reset.baud = none ∧ State.reset.lastAct = none ∧
    ∀ (i : Instr) (slave fc : Byte) (deadline : Time), ∃ t t', exec i State.reset = .next t ∧
      exec i { State.reset with pslave := slave, pfc := fc, pdl := deadline } = .next t' ∧ t'.answer = t.answer

/-- R62 to R73, one step: a pending request that decodes is performed by `exec`, on the state with the request taken.  That
requests wait in a list of State is the model's own form (log entry 2). -/
def Obligations.StepRunsTheDecodedRequest : Prop :=
  ∀ (s : State) (r : Request) (rest : List Request) (i : Instr),
    s.requests = r :: rest → decode r = .ok i → step s = exec i { s with requests := rest }

/-- The model's own conventions for the other steps (log entries 4 and 7): with no request pending the machine stays as
it is, and a request whose selector is known but whose operands do not fit stops it. -/
def Obligations.StepIdlesAndStopsOnMalformedRequests : Prop :=
  (∀ s : State, s.requests = [] → step s = .next s) ∧
    ∀ (s : State) (r : Request) (rest : List Request),
      s.requests = r :: rest → decode r = .error .malformedOperands → step s = .fault .malformedRequest

/-- R73: exactly the selectors of the eight ranges are reserved; a request with one, whatever its operands, is answered
`ILLEGAL_OP` and changes no state. -/
def Obligations.ReservedSelectorsAreRefused : Prop :=
  ∀ (s : State) (r : Request) (rest : List Request), s.requests = r :: rest →
    ((0x03 ≤ r.op.toNat ∧ r.op.toNat ≤ 0x0F) ∨ (0x13 ≤ r.op.toNat ∧ r.op.toNat ≤ 0x1F) ∨
      (0x25 ≤ r.op.toNat ∧ r.op.toNat ≤ 0x2F) ∨ (0x34 ≤ r.op.toNat ∧ r.op.toNat ≤ 0x3F) ∨
      (0x45 ≤ r.op.toNat ∧ r.op.toNat ≤ 0x4F) ∨ (0x53 ≤ r.op.toNat ∧ r.op.toNat ≤ 0x5F) ∨
      (0x68 ≤ r.op.toNat ∧ r.op.toNat ≤ 0x6F) ∨ 0x70 ≤ r.op.toNat ↔ decode r = .error .reservedSelector) ∧
    (decode r = .error .reservedSelector → step s = nextRaised .illegalOp { s with requests := rest })

/-- R72, R71: the records of one operation of each unit, written out from the operation map, decode to it. -/
def Obligations.SampleRecordsDecode : Prop :=
  decode ⟨0x01, [.bytes [0x11, 0x03]]⟩ = .ok (.crcPush [0x11, 0x03]) ∧
    decode ⟨0x12, []⟩ = .ok .lrcValue ∧
    decode ⟨0x21, [.byte 0x04, .bytes [0x00, 0x08, 0x00, 0x01]]⟩ = .ok (.mbapEncode 0x04 [0x00, 0x08, 0x00, 0x01]) ∧
    decode ⟨0x33, [.bytes [0x11], .bytes [0x12]]⟩ = .ok (.rtuVerify [0x11] [0x12]) ∧
    decode ⟨0x40, [.byte 0xF7]⟩ = .ok (.asciiSetSlave 0xF7) ∧
    decode ⟨0x50, [.byte 0x11, .byte 0x03, .time 30000]⟩ = .ok (.rtupStart 0x11 0x03 30000) ∧
    decode ⟨0x60, [.nat 9600]⟩ = .ok (.timSetBaud 9600) ∧
    decode ⟨0x67, [.time 1718]⟩ = .ok (.timGap 1718)

/-- Every well-formed operation is what its own record decodes to. -/
def Obligations.DecodeOfEncode : Prop :=
  ∀ i : Instr, wellFormed i = true → decode (encode i) = .ok i

/-- Every record that decodes is the record of the operation it decodes to: no operation has two records. -/
def Obligations.RecordsHaveOneMeaning : Prop :=
  ∀ (r : Request) (i : Instr), decode r = .ok i → encode i = r ∧ wellFormed i = true

/-- R62: running the machine on a queue of requests is the fold of their operations, in the order the host issued
them.  That requests wait in a list of State is the model's own form (log entry 2). -/
def Obligations.QueueRunsInIssueOrder : Prop :=
  ∀ (ops : List Instr) (s : State), (∀ i ∈ ops, wellFormed i = true) →
    Host.Core.run Sys2Proof.core ops.length ({ s with requests := ops.map encode } : State) =
      performAll ops { s with requests := [] }

/-! ## Rules about every operation -/

/-- R70: one request has exactly one answer; and an answer that is not `OK` carries no results. -/
def Obligations.EveryOperationAnswers : Prop :=
  ∀ (i : Instr) (s : State), ∃ t a, exec i s = .next t ∧ t.answer = some a ∧ t.requests = s.requests ∧
    (a.status ≠ .ok → a.results = .none)

/-- R256: an operation returns `OK` or a status of its row of the table. -/
def Obligations.StatusesAreThoseOfTheTable : Prop :=
  ∀ (i : Instr) (s t : State) (a : Answer), exec i s = .next t → t.answer = some a →
    a.status = .ok ∨ a.status.code ∈ statusCodes i

/-- R256: every status of an operation's row is returned by that operation, for some operands and state. -/
def Obligations.EveryListedStatusIsReturned : Prop :=
  ∀ (i : Instr) (c : Byte), c ∈ statusCodes i →
    ∃ (i' : Instr) (s t : State) (a : Answer), (encode i').op = (encode i).op ∧ exec i' s = .next t ∧
      t.answer = some a ∧ a.status.code = c

/-- R251 to R253: the codes tell the statuses apart, `OK` is 0, and every other status is either an outcome, coded 0x01
to 0x0D, or a refusal, coded 0x80 to 0x86. -/
def Obligations.StatusCodesDiscriminate : Prop :=
  (∀ st st' : Status, st.code = st'.code →
      st = st' ∨ ∃ g e g' e', st = .txidMismatch g e ∧ st' = .txidMismatch g' e') ∧
    ∀ st : Status, st = .ok ∧ st.code = 0 ∨
      (st.isOutcome = true ∧ st.isRefusal = false ∧ 0x01 ≤ st.code.toNat ∧ st.code.toNat ≤ 0x0D) ∨
      (st.isOutcome = false ∧ st.isRefusal = true ∧ 0x80 ≤ st.code.toNat ∧ st.code.toNat ≤ 0x86)

/-- R255: after a status other than `OK` every element is as before, but for the four parser statuses, which set
`PST <- FAILED` and change nothing else. -/
def Obligations.RaisingChangesNothing : Prop :=
  ∀ (i : Instr) (s t : State) (a : Answer), exec i s = .next t → t.answer = some a → a.status ≠ .ok →
    (a.status = .deadlineExceeded ∨ a.status = .unexpectedFc ∨ a.status = .unsupportedFc ∨ a.status = .invalidLength →
      t.toBlock = { s.toBlock with pst := .failed }) ∧
    (a.status ≠ .deadlineExceeded → a.status ≠ .unexpectedFc → a.status ≠ .unsupportedFc → a.status ≠ .invalidLength →
      t.toBlock = s.toBlock)

/-- The frame of every operation (R23, R36; `RTUP.START` also clears `PREM`, R191 and log entry 18): an element outside the
operation's "written by" entries is unchanged, and so are the requests still pending (log entry 2). -/
def Obligations.OperationsChangeOnlyTheirElements : Prop :=
  ∀ (i : Instr) (s t : State), exec i s = .next t →
    t.requests = s.requests ∧ ∀ e : Elem, e ∉ writes i → t.toBlock.Agree s.toBlock e

/-- R36: an operation's answer depends only on its operands, the parameter and the elements its "read by" entries
name. -/
def Obligations.AnswersDependOnlyOnReadElements : Prop :=
  ∀ (i : Instr) (s s' : State), (∀ e ∈ reads i, s.toBlock.Agree s'.toBlock e) →
    ∃ t t', exec i s = .next t ∧ exec i s' = .next t' ∧ t.answer = t'.answer

/-- R59: the operations listed as changing no state change none and answer a second issue as the first; those listed
as idempotent leave on a second issue the state the first left. -/
def Obligations.RepeatedIssues : Prop :=
  (∀ (i : Instr) (s : State), changesNothing i = true →
      ∃ t u, exec i s = .next t ∧ t.toBlock = s.toBlock ∧ exec i t = .next u ∧ u.answer = t.answer) ∧
    ∀ (i : Instr) (s : State), idempotent i = true →
      ∃ t u, exec i s = .next t ∧ exec i t = .next u ∧ u.toBlock = t.toBlock

/-- R284: until the host has issued the operation that initialises a unit, the unit's working operations are refused;
every other operation works straight after reset. -/
def Obligations.UnitsRefuseUntilInitialised : Prop :=
  (∀ (ops : List Instr) (t : State), performAll ops State.reset = .next t →
    (Instr.crcNew ∉ ops → ∀ S, exec (.crcPush S) t = nextRaised .uninit t ∧ exec .crcValue t = nextRaised .uninit t) ∧
    (Instr.lrcNew ∉ ops → ∀ S, exec (.lrcPush S) t = nextRaised .uninit t ∧ exec .lrcValue t = nextRaised .uninit t) ∧
    ((∀ id, Instr.mbapSetSlave id ∉ ops) → ∀ fc data, data.length ≤ 252 →
      exec (.mbapEncode fc data) t = nextRaised .uninit t) ∧
    ((∀ id, Instr.rtuSetSlave id ∉ ops) → ∀ fc data, data.length ≤ 252 →
      exec (.rtuEncode fc data) t = nextRaised .uninit t) ∧
    ((∀ id, Instr.asciiSetSlave id ∉ ops) → ∀ fc data, data.length ≤ 252 →
      exec (.asciiEncode fc data) t = nextRaised .uninit t) ∧
    ((∀ slave fc deadline, Instr.rtupStart slave fc deadline ∉ ops) → ∀ b now,
      exec (.rtupByte b now) t = nextRaised .parserNotActive t ∧ exec (.rtupTick now) t = nextRaised .parserNotActive t) ∧
    ((∀ n, Instr.timSetBaud n ∉ ops) → ∀ n x,
      exec .timChar t = nextRaised .uninit t ∧ exec .timT35 t = nextRaised .uninit t ∧
      exec (.timPresend x) t = nextRaised .uninit t ∧ exec (.timPostsend n) t = nextRaised .uninit t ∧
      exec (.timRxtime n) t = nextRaised .uninit t ∧ exec (.timGap x) t = nextRaised .uninit t)) ∧
  ∀ i : Instr, needsInit i = false → ∃ t a, exec i State.reset = .next t ∧ t.answer = some a ∧
    a.status ≠ .uninit ∧ a.status ≠ .parserNotActive

/-! ## Invariants -/

/-- The invariant holds after reset. -/
def Obligations.ResetMeetsTheInvariant : Prop := State.reset.Inv

/-- The invariant of `State.Inv` (R38, and what it rests on in R205 and R220) is kept by every step, from every state
that meets it. -/
def Obligations.StepKeepsTheInvariant : Prop :=
  ∀ s t : State, s.Inv → step s = .next t → t.Inv


/-- R38: its clauses hold after reset and after every operation, whatever requests the host issues. -/
def Obligations.LegalAfterEveryRun : Prop :=
  ∀ (reqs : List Request) (k : Nat) (t : State),
    Host.Core.run Sys2Proof.core k ({ State.reset with requests := reqs } : State) = (.next t : Out) → t.toBlock.Legal

/-! ## CRC unit -/

/-- R110, R111, R112: `CRC.NEW`, `CRC.PUSH` and `CRC.VALUE`, the fold written on integers.  The spec marks the bit-level
procedure of R111 as general knowledge, normative in it (G1, log entry 8). -/
def Obligations.CrcOperationsFollowTheirRules : Prop :=
  ∀ s : State,
    exec .crcNew s = nextOk { s with crc := some 0xFFFF } .none ∧
    (s.crc = none → ∀ S, exec (.crcPush S) s = nextRaised .uninit s) ∧
    (s.crc = none → exec .crcValue s = nextRaised .uninit s) ∧
    (∀ c S, s.crc = some c →
      ∃ c' : Word16, c'.toNat = natCrc c.toNat S ∧ exec (.crcPush S) s = nextOk { s with crc := some c' } .none) ∧
    (∀ c, s.crc = some c → exec .crcValue s = nextOk s (.crcValue c))

/-- R115 (a): pushing a string is pushing its two parts one after the other. -/
def Obligations.CrcPushIsIncremental : Prop :=
  ∀ (S T : Bytes) (s : State), s.crc ≠ none →
    exec (.crcPush (S ++ T)) s = performAll [.crcPush S, .crcPush T] s

/-- R115 (b): a string followed by its CRC, low byte first, has CRC zero. -/
def Obligations.CrcResidueIsZero : Prop :=
  ∀ S : Bytes, crc16 (S ++ [lo8 (crc16 S), hi8 (crc16 S)]) = 0

/-- R115 (c), (d): one byte's step is a bijection of the accumulator; strings of equal length that differ in exactly one
byte have different CRCs; and the value depends on the order of bytes. -/
def Obligations.CrcDetectsOneChangedByte : Prop :=
  (∀ b : Byte, Function.Bijective (fun c => crcStep c b)) ∧
    (∀ (S T : Bytes) (b b' : Byte), b ≠ b' → crc16 (S ++ [b] ++ T) ≠ crc16 (S ++ [b'] ++ T)) ∧
    ∃ b b' : Byte, crc16 [b, b'] ≠ crc16 [b', b]


/-! ## LRC unit -/

/-- R118, R119, R120: `LRC.NEW`, `LRC.PUSH` and `LRC.VALUE`, with the sum and its negation on integers. -/
def Obligations.LrcOperationsFollowTheirRules : Prop :=
  ∀ s : State,
    exec .lrcNew s = nextOk { s with sum := some 0 } .none ∧
    (s.sum = none → ∀ S, exec (.lrcPush S) s = nextRaised .uninit s) ∧
    (s.sum = none → exec .lrcValue s = nextRaised .uninit s) ∧
    (∀ v S, s.sum = some v →
      ∃ v' : Byte, v'.toNat = (v.toNat + byteSum S) % 256 ∧ exec (.lrcPush S) s = nextOk { s with sum := some v' } .none) ∧
    (∀ v, s.sum = some v →
      ∃ w : Byte, w.toNat = (256 - v.toNat) % 256 ∧ exec .lrcValue s = nextOk s (.lrcValue w))

/-- R123: the laws of the LRC: (a) incrementality, (b) residue, (c) the order of bytes does not matter and two
single-byte errors that cancel go undetected. -/
def Obligations.LrcLaws : Prop :=
  (∀ (S T : Bytes) (s : State), s.sum ≠ none →
      exec (.lrcPush (S ++ T)) s = performAll [.lrcPush S, .lrcPush T] s) ∧
    (∀ S : Bytes, (byteSum S + (lrc8 S).toNat) % 256 = 0 ∧ lrc8 (S ++ [lrc8 S]) = 0) ∧
    (∀ S T : Bytes, S.Perm T → lrc8 S = lrc8 T) ∧
    (∀ (A B C : Bytes) (x y d : Byte),
      lrc8 (A ++ [x + d] ++ B ++ [y - d] ++ C) = lrc8 (A ++ [x] ++ B ++ [y] ++ C))

/-! ## MBAP framer -/

/-- R131, R151, R171: each `SETSLAVE` writes its framer's register and nothing else, for every identifier. -/
def Obligations.SetSlaveWritesItsRegister : Prop :=
  ∀ (id : Byte) (s : State),
    exec (.mbapSetSlave id) s = nextOk { s with slaveM := some id } .none ∧
    exec (.rtuSetSlave id) s = nextOk { s with slaveR := some id } .none ∧
    exec (.asciiSetSlave id) s = nextOk { s with slaveA := some id } .none

/-- R132: `MBAP.ENCODE`, its two refusals in order, and the frame byte by byte as integers. -/
def Obligations.MbapEncodeBuildsTheFrame : Prop :=
  ∀ (fc : Byte) (data : Bytes) (s : State),
    (252 < data.length → exec (.mbapEncode fc data) s = nextRaised .pduTooLong s) ∧
    (data.length ≤ 252 → s.slaveM = none → exec (.mbapEncode fc data) s = nextRaised .uninit s) ∧
    (data.length ≤ 252 → ∀ unit, s.slaveM = some unit →
      ∃ (t : Word32) (tx : Word16) (adu : Bytes),
        t.toNat = (s.txc.toNat + 1) % 2 ^ 32 ∧ tx.toNat = t.toNat % 2 ^ 16 ∧
        adu.map BitVec.toNat =
          [tx.toNat / 256, tx.toNat % 256, 0, 0, (2 + data.length) / 256, (2 + data.length) % 256, unit.toNat, fc.toNat] ++
            data.map BitVec.toNat ∧
        exec (.mbapEncode fc data) s = nextOk { s with txc := t } (.mbapAdu adu tx))

/-- R134: two successive successful encodes carry successive transaction IDs; failed encodes and operations of other
kinds in between do not disturb this. -/
def Obligations.MbapTransactionIdsAreSuccessive : Prop :=
  ∀ (s t s' t' : State) (fc fc' : Byte) (data data' adu adu' : Bytes) (tx tx' : Word16) (between : List Instr),
    exec (.mbapEncode fc data) s = .next t → t.answer = some ⟨.ok, .mbapAdu adu tx⟩ →
    (∀ fc'' data'', Instr.mbapEncode fc'' data'' ∈ between → 252 < data''.length) →
    performAll between t = .next s' →
    exec (.mbapEncode fc' data') s' = .next t' → t'.answer = some ⟨.ok, .mbapAdu adu' tx'⟩ →
    tx'.toNat = (tx.toNat + 1) % 2 ^ 16

/-- R135: `MBAP.DECODE`: too long, too short, a length field that is not the frame length minus 6, or the PDU;
whatever the transaction, protocol and unit fields hold. -/
def Obligations.MbapDecodeChecksTheLength : Prop :=
  (∀ (adu : Bytes) (s : State),
      (260 < adu.length → exec (.mbapDecode adu) s = nextRaised .operandTooLong s) ∧
      (adu.length < 8 → exec (.mbapDecode adu) s = nextRaised .frameTooShort s)) ∧
    ∀ (a0 a1 a2 a3 a4 a5 a6 fc : Byte) (data : Bytes) (s : State), data.length ≤ 252 →
      (a4.toNat * 256 + a5.toNat = 2 + data.length →
        exec (.mbapDecode ([a0, a1, a2, a3, a4, a5, a6, fc] ++ data)) s = nextOk s (.pdu fc data)) ∧
      (a4.toNat * 256 + a5.toNat ≠ 2 + data.length →
        exec (.mbapDecode ([a0, a1, a2, a3, a4, a5, a6, fc] ++ data)) s = nextRaised .lengthMismatch s)

/-- R137: `MBAP.VERIFY`: the size tests, then the three identity comparisons in order; nothing else is examined. -/
def Obligations.MbapVerifyComparesIdentity : Prop :=
  (∀ (req resp : Bytes) (s : State),
      (260 < req.length ∨ 260 < resp.length → exec (.mbapVerify req resp) s = nextRaised .operandTooLong s) ∧
      (req.length ≤ 260 → resp.length ≤ 260 → req.length < 7 → exec (.mbapVerify req resp) s = nextRaised .badOperand s) ∧
      (req.length ≤ 260 → resp.length < 7 → 7 ≤ req.length →
        exec (.mbapVerify req resp) s = nextRaised .frameTooShort s)) ∧
    ∀ (q0 q1 q2 q3 q4 q5 q6 p0 p1 p2 p3 p4 p5 p6 : Byte) (q p : Bytes) (s : State),
      q.length ≤ 253 → p.length ≤ 253 →
      (¬(p0 = q0 ∧ p1 = q1) → ∃ got expected : Word16,
        got.toNat = p0.toNat * 256 + p1.toNat ∧ expected.toNat = q0.toNat * 256 + q1.toNat ∧
        exec (.mbapVerify ([q0, q1, q2, q3, q4, q5, q6] ++ q) ([p0, p1, p2, p3, p4, p5, p6] ++ p)) s =
          nextRaised (.txidMismatch got expected) s) ∧
      (p0 = q0 → p1 = q1 → ¬(p2 = q2 ∧ p3 = q3) →
        exec (.mbapVerify ([q0, q1, q2, q3, q4, q5, q6] ++ q) ([p0, p1, p2, p3, p4, p5, p6] ++ p)) s =
          nextRaised .protoidMismatch s) ∧
      (p0 = q0 → p1 = q1 → p2 = q2 → p3 = q3 → p6 ≠ q6 →
        exec (.mbapVerify ([q0, q1, q2, q3, q4, q5, q6] ++ q) ([p0, p1, p2, p3, p4, p5, p6] ++ p)) s =
          nextRaised .unitidMismatch s) ∧
      (p0 = q0 → p1 = q1 → p2 = q2 → p3 = q3 → p6 = q6 →
        exec (.mbapVerify ([q0, q1, q2, q3, q4, q5, q6] ++ q) ([p0, p1, p2, p3, p4, p5, p6] ++ p)) s = nextOk s .none)

/-- R139: `MBAP.HDR`: exactly 7 bytes, a length of 1 to 254, and the bytes that remain. -/
def Obligations.MbapHdrGivesTheBodyLength : Prop :=
  (∀ (hdr : Bytes) (s : State), hdr.length ≠ 7 → exec (.mbapHdr hdr) s = nextRaised .badOperand s) ∧
    ∀ (a0 a1 a2 a3 a4 a5 a6 : Byte) (s : State),
      (a4.toNat * 256 + a5.toNat = 0 ∨ 254 < a4.toNat * 256 + a5.toNat →
        exec (.mbapHdr [a0, a1, a2, a3, a4, a5, a6]) s = nextRaised .headerLength s) ∧
      (1 ≤ a4.toNat * 256 + a5.toNat → a4.toNat * 256 + a5.toNat ≤ 254 →
        exec (.mbapHdr [a0, a1, a2, a3, a4, a5, a6]) s = nextOk s (.bodyLen (a4.toNat * 256 + a5.toNat - 1)))

/-- R140: the MBAP round trip: decode, header check and verify of every encoded frame, in any later state. -/
def Obligations.MbapRoundTrip : Prop :=
  ∀ (id fc : Byte) (data : Bytes) (s : State), data.length ≤ 252 →
    ∃ (t : State) (adu : Bytes) (tx : Word16),
      performAll [.mbapSetSlave id, .mbapEncode fc data] s = .next t ∧ t.answer = some ⟨.ok, .mbapAdu adu tx⟩ ∧
      ∀ u : State,
        exec (.mbapDecode adu) u = nextOk u (.pdu fc data) ∧
        exec (.mbapHdr (adu.take 7)) u = nextOk u (.bodyLen (adu.length - 7)) ∧
        exec (.mbapVerify adu adu) u = nextOk u .none

/-- R141: in every frame `MBAP.ENCODE` returns, bytes 4 and 5 read big-endian are the frame length minus 6, which is
`2 + |data|`. -/
def Obligations.MbapLengthInvariant : Prop :=
  ∀ (fc : Byte) (data adu : Bytes) (tx : Word16) (s t : State),
    exec (.mbapEncode fc data) s = .next t → t.answer = some ⟨.ok, .mbapAdu adu tx⟩ →
    ∃ h l : Byte, adu[4]? = some h ∧ adu[5]? = some l ∧ h.toNat * 256 + l.toNat = adu.length - 6 ∧
      adu.length - 6 = 2 + data.length

/-! ## RTU framer -/

/-- R152: `RTU.ENCODE`, its two refusals in order, and the frame: slave, function code, data, then the CRC of all that,
low byte first. -/
def Obligations.RtuEncodeBuildsTheFrame : Prop :=
  ∀ (fc : Byte) (data : Bytes) (s : State),
    (252 < data.length → exec (.rtuEncode fc data) s = nextRaised .pduTooLong s) ∧
    (data.length ≤ 252 → s.slaveR = none → exec (.rtuEncode fc data) s = nextRaised .uninit s) ∧
    (data.length ≤ 252 → ∀ slave, s.slaveR = some slave →
      ∃ l h : Byte, l.toNat = natCrc 0xFFFF (slave :: fc :: data) % 256 ∧
        h.toNat = natCrc 0xFFFF (slave :: fc :: data) / 256 ∧
        exec (.rtuEncode fc data) s = nextOk s (.adu ([slave, fc] ++ data ++ [l, h])))

/-- R153: every frame `RTU.ENCODE` returns has CRC zero over all of it, length `|data| + 4`, and the slave and function
code in front. -/
def Obligations.RtuEncodedFrameLaws : Prop :=
  ∀ (fc : Byte) (data adu : Bytes) (s t : State),
    exec (.rtuEncode fc data) s = .next t → t.answer = some ⟨.ok, .adu adu⟩ →
    crc16 adu = 0 ∧ adu.length = data.length + 4 ∧ adu[0]? = s.slaveR ∧ adu[1]? = some fc

/-- R154: `RTU.DECODE`: too long, too short, a CRC that is not that of everything before it, or the PDU. -/
def Obligations.RtuDecodeChecksTheCrc : Prop :=
  (∀ (adu : Bytes) (s : State),
      (256 < adu.length → exec (.rtuDecode adu) s = nextRaised .operandTooLong s) ∧
      (adu.length < 4 → exec (.rtuDecode adu) s = nextRaised .frameTooShort s)) ∧
    ∀ (slave fc l h : Byte) (data : Bytes) (s : State), data.length ≤ 252 →
      (l.toNat + h.toNat * 256 = natCrc 0xFFFF (slave :: fc :: data) →
        exec (.rtuDecode ([slave, fc] ++ data ++ [l, h])) s = nextOk s (.pdu fc data)) ∧
      (l.toNat + h.toNat * 256 ≠ natCrc 0xFFFF (slave :: fc :: data) →
        exec (.rtuDecode ([slave, fc] ++ data ++ [l, h])) s = nextRaised .checksumMismatch s)

/-- R156: `RTU.VERIFY`: the size tests, then the echo of the request's slave identifier; nothing else is examined. -/
def Obligations.RtuVerifyComparesTheSlave : Prop :=
  (∀ (req resp : Bytes) (s : State),
      (256 < req.length ∨ 256 < resp.length → exec (.rtuVerify req resp) s = nextRaised .operandTooLong s) ∧
      (resp.length ≤ 256 → req = [] → exec (.rtuVerify req resp) s = nextRaised .badOperand s) ∧
      (req.length ≤ 256 → req ≠ [] → resp.length < 4 → exec (.rtuVerify req resp) s = nextRaised .frameTooShort s)) ∧
    ∀ (q0 p0 : Byte) (q p : Bytes) (s : State), q.length ≤ 255 → 3 ≤ p.length → p.length ≤ 255 →
      (p0 ≠ q0 → exec (.rtuVerify (q0 :: q) (p0 :: p)) s = nextRaised .slaveidMismatch s) ∧
      (p0 = q0 → exec (.rtuVerify (q0 :: q) (p0 :: p)) s = nextOk s .none)

/-- R158: the RTU round trip, and that any single changed byte of an encoded frame is reported by `RTU.DECODE`. -/
def Obligations.RtuRoundTripAndErrorDetection : Prop :=
  ∀ (id fc : Byte) (data : Bytes) (s : State), data.length ≤ 252 →
    ∃ (t : State) (adu : Bytes),
      performAll [.rtuSetSlave id, .rtuEncode fc data] s = .next t ∧ t.answer = some ⟨.ok, .adu adu⟩ ∧
      ∀ u : State,
        exec (.rtuDecode adu) u = nextOk u (.pdu fc data) ∧
        exec (.rtuVerify adu adu) u = nextOk u .none ∧
        ∀ (pre post : Bytes) (b b' : Byte), adu = pre ++ [b] ++ post → b' ≠ b →
          exec (.rtuDecode (pre ++ [b'] ++ post)) u = nextRaised .checksumMismatch u

/-! ## ASCII framer -/

/-- R172: `ASCII.ENCODE`, its two refusals in order, and the frame: `:`, the body and its LRC in upper-case hexadecimal,
CR LF. -/
def Obligations.AsciiEncodeBuildsTheFrame : Prop :=
  ∀ (fc : Byte) (data : Bytes) (s : State),
    (252 < data.length → exec (.asciiEncode fc data) s = nextRaised .pduTooLong s) ∧
    (data.length ≤ 252 → s.slaveA = none → exec (.asciiEncode fc data) s = nextRaised .uninit s) ∧
    (data.length ≤ 252 → ∀ slave, s.slaveA = some slave →
      ∃ l : Byte, l.toNat = (256 - byteSum (slave :: fc :: data) % 256) % 256 ∧
        exec (.asciiEncode fc data) s =
          nextOk s (.adu ([0x3A] ++ hexOf ([slave, fc] ++ data ++ [l]) ++ [0x0D, 0x0A])))

/-- R173: the laws of every frame `ASCII.ENCODE` returns: its fixed characters, upper-case digits in between, and decoded
bytes that add up to zero. -/
def Obligations.AsciiEncodedFrameLaws : Prop :=
  ∀ (fc : Byte) (data adu : Bytes) (s t : State),
    exec (.asciiEncode fc data) s = .next t → t.answer = some ⟨.ok, .adu adu⟩ →
    adu[0]? = some 0x3A ∧ adu[adu.length - 2]? = some 0x0D ∧ adu[adu.length - 1]? = some 0x0A ∧
      (∀ c ∈ slice adu 1 (adu.length - 3), c ∈ hexDigits) ∧
      ∃ bin, unhexPairs false (slice adu 1 (adu.length - 3)) = some bin ∧ byteSum bin % 256 = 0

/-- R175: `ASCII.DECODE` of a frame that cannot be read: too long, too short, an odd number of characters in the
hexadecimal region, or a character there that is no accepted digit, whatever `HEX_LOWER_OK` is. -/
def Obligations.AsciiDecodeRejectsUnreadableFrames : Prop :=
  ∀ (adu : Bytes) (s : State),
    (513 < adu.length → exec (.asciiDecode adu) s = nextRaised .operandTooLong s) ∧
    (adu.length < 9 → exec (.asciiDecode adu) s = nextRaised .frameTooShort s) ∧
    (9 ≤ adu.length → adu.length ≤ 513 → (adu.length - 1) % 2 = 1 →
      exec (.asciiDecode adu) s = nextRaised .asciiBoundary s) ∧
    (9 ≤ adu.length → adu.length ≤ 513 → (adu.length - 1) % 2 = 0 →
      (∃ i c, 1 ≤ i ∧ i ≤ adu.length - 3 ∧ adu[i]? = some c ∧ ¬IsHexDigit Config.hexLowerOk c) →
      exec (.asciiDecode adu) s = nextRaised .hexInvalid s)

/-- R175: `ASCII.DECODE` of a frame of upper-case digits: the LRC decides between the PDU and `CHECKSUM_MISMATCH`; the
first and the last two characters are not examined. -/
def Obligations.AsciiDecodeChecksTheLrc : Prop :=
  ∀ (x y z slave fc l : Byte) (data : Bytes) (s : State), data.length ≤ 252 →
    ((byteSum (slave :: fc :: data) + l.toNat) % 256 = 0 →
      exec (.asciiDecode ([x] ++ hexOf ([slave, fc] ++ data ++ [l]) ++ [y, z])) s = nextOk s (.pdu fc data)) ∧
    ((byteSum (slave :: fc :: data) + l.toNat) % 256 ≠ 0 →
      exec (.asciiDecode ([x] ++ hexOf ([slave, fc] ++ data ++ [l]) ++ [y, z])) s = nextRaised .checksumMismatch s)

/-- R96, D13: with `HEX_LOWER_OK` true the digits `a` to `f` decode as `A` to `F`, wherever they stand; with either value
the operation is the decode of that value. -/
def Obligations.AsciiLowerCaseDecodesAsUpperCase : Prop :=
  ∀ (adu : Bytes) (s : State),
    asciiDecodeWith true adu s = asciiDecodeWith true (adu.map upperHex) s ∧
      exec (.asciiDecode adu) s = asciiDecodeWith Config.hexLowerOk adu s

/-- R178: `ASCII.VERIFY`: the size tests, then parity, start character, tail and slave echo in order; nothing else is
examined. -/
def Obligations.AsciiVerifyChecksTheBoundaries : Prop :=
  (∀ (req resp : Bytes) (s : State),
      (513 < req.length ∨ 513 < resp.length → exec (.asciiVerify req resp) s = nextRaised .operandTooLong s) ∧
      (req.length < 3 → resp.length ≤ 513 → exec (.asciiVerify req resp) s = nextRaised .badOperand s) ∧
      (3 ≤ req.length → req.length ≤ 513 → resp.length < 9 →
        exec (.asciiVerify req resp) s = nextRaised .frameTooShort s) ∧
      (3 ≤ req.length → req.length ≤ 513 → 9 ≤ resp.length → resp.length ≤ 513 → (resp.length - 1) % 2 = 1 →
        exec (.asciiVerify req resp) s = nextRaised .asciiBoundary s)) ∧
    ∀ (q0 q1 q2 p0 p1 p2 cr lf : Byte) (q body : Bytes) (s : State),
      q.length ≤ 510 → 4 ≤ body.length → body.length ≤ 508 → body.length % 2 = 0 →
      (p0 ≠ 0x3A → p0 ≠ 0x3E →
        exec (.asciiVerify ([q0, q1, q2] ++ q) ([p0, p1, p2] ++ body ++ [cr, lf])) s = nextRaised .asciiBoundary s) ∧
      ((p0 = 0x3A ∨ p0 = 0x3E) → ¬(cr = 0x0D ∧ lf = 0x0A) →
        exec (.asciiVerify ([q0, q1, q2] ++ q) ([p0, p1, p2] ++ body ++ [cr, lf])) s = nextRaised .asciiBoundary s) ∧
      ((p0 = 0x3A ∨ p0 = 0x3E) → cr = 0x0D → lf = 0x0A → ¬(p1 = q1 ∧ p2 = q2) →
        exec (.asciiVerify ([q0, q1, q2] ++ q) ([p0, p1, p2] ++ body ++ [cr, lf])) s = nextRaised .slaveidMismatch s) ∧
      ((p0 = 0x3A ∨ p0 = 0x3E) → cr = 0x0D → lf = 0x0A → p1 = q1 → p2 = q2 →
        exec (.asciiVerify ([q0, q1, q2] ++ q) ([p0, p1, p2] ++ body ++ [cr, lf])) s = nextOk s .none)

/-- R181: `ASCII.SCAN` cuts the stream after the first CR LF among its first 513 characters, else after 513 characters,
else at its end. -/
def Obligations.AsciiScanFindsTheFrameEnd : Prop :=
  ∀ (stream : Bytes) (s : State),
    (∀ k, k < stream.length → k < 513 → CrlfAt stream k → (∀ j, j < k → ¬CrlfAt stream j) →
      exec (.asciiScan stream) s = nextOk s (.scanned (stream.take (k + 1)) .crlf)) ∧
    ((∀ k, k < 513 → ¬CrlfAt stream k) → 513 ≤ stream.length →
      exec (.asciiScan stream) s = nextOk s (.scanned (stream.take 513) .maxSize)) ∧
    ((∀ k, k < 513 → ¬CrlfAt stream k) → stream.length < 513 →
      exec (.asciiScan stream) s = nextOk s (.scanned stream .streamEnd))

/-- R183: the ASCII round trip: decode with either value of `HEX_LOWER_OK`, verify and scan of every encoded frame. -/
def Obligations.AsciiRoundTrip : Prop :=
  ∀ (id fc : Byte) (data : Bytes) (s : State), data.length ≤ 252 →
    ∃ (t : State) (adu : Bytes),
      performAll [.asciiSetSlave id, .asciiEncode fc data] s = .next t ∧ t.answer = some ⟨.ok, .adu adu⟩ ∧
      ∀ u : State,
        exec (.asciiDecode adu) u = nextOk u (.pdu fc data) ∧
        (∀ lowerOk, asciiDecodeWith lowerOk adu u = nextOk u (.pdu fc data)) ∧
        exec (.asciiVerify adu adu) u = nextOk u .none ∧
        exec (.asciiScan adu) u = nextOk u (.scanned adu .crlf)

/-- R87: no encode operation answers a frame over its style's maximum size: MBAP 260, RTU 256, ASCII 513. -/
def Obligations.EncodedFramesFitTheMaximumSizes : Prop :=
  ∀ (fc : Byte) (data : Bytes) (s t : State) (adu : Bytes) (tx : Word16),
    (exec (.mbapEncode fc data) s = .next t → t.answer = some ⟨.ok, .mbapAdu adu tx⟩ →
      adu.length = 8 + data.length ∧ adu.length ≤ 260) ∧
    (exec (.rtuEncode fc data) s = .next t → t.answer = some ⟨.ok, .adu adu⟩ →
      adu.length = 4 + data.length ∧ adu.length ≤ 256) ∧
    (exec (.asciiEncode fc data) s = .next t → t.answer = some ⟨.ok, .adu adu⟩ →
      adu.length = 9 + 2 * data.length ∧ adu.length ≤ 513)

/-! ## Pseudo-operations -/

/-- R76: `CRC16 S` answers `crc16(S)`, `LRC8 S` answers `lrc8(S)`, and a `CHECK` answers what `VERIFY` answers when that is
not `OK`, else what `DECODE` answers. -/
def Obligations.PseudoOperationsExpand : Prop :=
  ∀ s : State,
    (∀ S, ∃ t, pseudoCrc16 S s = .next t ∧ t.answer = some ⟨.ok, .crcValue (crc16 S)⟩) ∧
    (∀ S, ∃ t, pseudoLrc8 S s = .next t ∧ t.answer = some ⟨.ok, .lrcValue (lrc8 S)⟩) ∧
    (∀ req resp, ∃ t u v a, exec (.rtuVerify req resp) s = .next t ∧ exec (.rtuDecode resp) t = .next u ∧
      t.answer = some a ∧ pseudoRtuCheck req resp s = .next v ∧
      (a.status ≠ .ok → v.answer = some a) ∧ (a.status = .ok → v.answer = u.answer)) ∧
    (∀ req resp, ∃ t u v a, exec (.asciiVerify req resp) s = .next t ∧ exec (.asciiDecode resp) t = .next u ∧
      t.answer = some a ∧ pseudoAsciiCheck req resp s = .next v ∧
      (a.status ≠ .ok → v.answer = some a) ∧ (a.status = .ok → v.answer = u.answer))

/-! ## RTU parser -/


/-- R191, R192, R195 to R202, collected by the spec in the table of R205: `RTUP.START` begins a parse from every state,
and in a state that meets R38 each row of the table, with its action and answer, is what `RTUP.BYTE` (and, for the rows
that name it, `RTUP.TICK`) does.  That a byte at `now = PDL` is accepted is the spec's decision D16. -/
def Obligations.ParserFollowsTheTransitionTable : Prop :=
  (∀ (slave fc : Byte) (deadline : Time) (s : State), exec (.rtupStart slave fc deadline) s =
    nextOk { s with pslave := slave, pfc := fc, pdl := deadline, pbuf := [], prem := 0, pst := .slaveId } .none) ∧
  ∀ (b : Byte) (now : Time) (s : State), s.toBlock.Legal →
    (s.pst = .idle ∨ s.pst = .done ∨ s.pst = .failed →
      exec (.rtupByte b now) s = nextRaised .parserNotActive s ∧
      exec (.rtupTick now) s = nextRaised .parserNotActive s) ∧
    (s.pst.working = true → s.pdl < now →
      exec (.rtupByte b now) s = nextRaised .deadlineExceeded { s with pst := .failed } ∧
      exec (.rtupTick now) s = nextRaised .deadlineExceeded { s with pst := .failed }) ∧
    (now ≤ s.pdl →
      (s.pst = .slaveId → b = s.pslave →
        exec (.rtupByte b now) s = nextOk { s with pbuf := s.pbuf ++ [b], pst := .functionCode } .parsing) ∧
      (s.pst = .slaveId → b ≠ s.pslave → exec (.rtupByte b now) s = nextOk s .parsing) ∧
      (s.pst = .functionCode → b = s.pfc → s.pfc ∈ readFamily →
        exec (.rtupByte b now) s = nextOk { s with pbuf := s.pbuf ++ [b], pst := .readLength } .parsing) ∧
      (s.pst = .functionCode → b = s.pfc → s.pfc ∈ writeFamily →
        exec (.rtupByte b now) s = nextOk { s with pbuf := s.pbuf ++ [b], prem := 4, pst := .readPayload } .parsing) ∧
      (s.pst = .functionCode → b = s.pfc → s.pfc = 0x16 →
        exec (.rtupByte b now) s = nextOk { s with pbuf := s.pbuf ++ [b], prem := 6, pst := .readPayload } .parsing) ∧
      (s.pst = .functionCode → b = s.pfc → s.pfc ∉ readFamily → s.pfc ∉ writeFamily → s.pfc ≠ 0x16 →
        exec (.rtupByte b now) s = nextRaised .unsupportedFc { s with pst := .failed }) ∧
      (s.pst = .functionCode → b ≠ s.pfc → b = s.pfc ||| 0x80 →
        exec (.rtupByte b now) s = nextOk { s with pbuf := s.pbuf ++ [b], prem := 1, pst := .readPayload } .parsing) ∧
      (s.pst = .functionCode → b ≠ s.pfc → b ≠ s.pfc ||| 0x80 →
        exec (.rtupByte b now) s = nextRaised .unexpectedFc { s with pst := .failed }) ∧
      (s.pst = .readLength → 1 ≤ b.toNat → b.toNat ≤ 251 →
        exec (.rtupByte b now) s =
          nextOk { s with pbuf := s.pbuf ++ [b], prem := b.toNat, pst := .readPayload } .parsing) ∧
      (s.pst = .readLength → b.toNat = 0 ∨ 252 ≤ b.toNat →
        exec (.rtupByte b now) s = nextRaised .invalidLength { s with pst := .failed }) ∧
      (s.pst = .readPayload → 1 < s.prem →
        exec (.rtupByte b now) s = nextOk { s with pbuf := s.pbuf ++ [b], prem := s.prem - 1 } .parsing) ∧
      (s.pst = .readPayload → s.prem = 1 →
        exec (.rtupByte b now) s = nextOk { s with pbuf := s.pbuf ++ [b], prem := 2, pst := .crc } .parsing) ∧
      (s.pst = .crc → s.prem = 2 →
        exec (.rtupByte b now) s = nextOk { s with pbuf := s.pbuf ++ [b], prem := 1 } .parsing) ∧
      (s.pst = .crc → s.prem = 1 →
        exec (.rtupByte b now) s =
          nextOk { s with pbuf := s.pbuf ++ [b], prem := 0, pst := .done } (.parsed (s.pbuf ++ [b]))))

/-- R193: `RTUP.TICK`: not active, deadline exceeded, or the time remaining, which is not negative. -/
def Obligations.RtupTickTestsTheDeadline : Prop :=
  ∀ (t : Time) (s : State),
    (s.pst = .idle ∨ s.pst = .done ∨ s.pst = .failed → exec (.rtupTick t) s = nextRaised .parserNotActive s) ∧
    (s.pst.working = true → s.pdl < t →
      exec (.rtupTick t) s = nextRaised .deadlineExceeded { s with pst := .failed }) ∧
    (s.pst.working = true → t ≤ s.pdl →
      ∃ r : Time, 0 ≤ r ∧ r + t = s.pdl ∧ exec (.rtupTick t) s = nextOk s (.remaining r))

/-- R195: in `SLAVE_ID` any number of bytes other than the requested slave identifier is discarded, leaving the block as
it was, and the slave identifier is then accepted as the start of the frame. -/
def Obligations.RtupDiscardsNoise : Prop :=
  ∀ (noise : Bytes) (times : List Time) (b : Byte) (now : Time) (s : State),
    s.pst = .slaveId → times.length = noise.length → (∀ c ∈ noise, c ≠ s.pslave) → (∀ t ∈ times, t ≤ s.pdl) →
    ∃ u : State, performAll (feed noise times) s = .next u ∧ u.toBlock = s.toBlock ∧
      (b = s.pslave → now ≤ s.pdl →
        exec (.rtupByte b now) u = nextOk { u with pbuf := [b], pst := .functionCode } .parsing)

/-- R207: for each of the eleven function codes, feeding the parser a response of the layout's shape ends in `DONE` at
its last byte, not earlier, and returns exactly that frame; and for every function code below 0x80 the exception form
yields exactly a 5-byte frame. -/
def Obligations.RtupParsesWholeResponses : Prop :=
  (∀ (slave fc c1 c2 : Byte) (p : Bytes) (times : List Time) (deadline : Time) (s : State),
      PayloadOf fc p → times.length = p.length + 4 → (∀ t ∈ times, t ≤ deadline) →
      (∃ t : State, performAll (.rtupStart slave fc deadline :: feed ([slave, fc] ++ p ++ [c1, c2]) times) s = .next t ∧
        t.pst = .done ∧ t.answer = some ⟨.ok, .parsed ([slave, fc] ++ p ++ [c1, c2])⟩) ∧
      ∀ k, k < p.length + 4 → ∃ u : State,
        performAll (.rtupStart slave fc deadline :: (feed ([slave, fc] ++ p ++ [c1, c2]) times).take k) s = .next u ∧
        u.pst.working = true) ∧
    ∀ (slave fc e c1 c2 : Byte) (times : List Time) (deadline : Time) (s : State),
      fc.toNat < 0x80 → times.length = 5 → (∀ t ∈ times, t ≤ deadline) →
      ∃ t : State, performAll (.rtupStart slave fc deadline :: feed [slave, fc ||| 0x80, e, c1, c2] times) s = .next t ∧
        t.pst = .done ∧ t.answer = some ⟨.ok, .parsed [slave, fc ||| 0x80, e, c1, c2]⟩

/-! ## Timing unit -/

/-- R221, R227: `TIM.SETBAUD` refuses zero and takes every positive rate; `TIM.MARK` refuses a time earlier than the
recorded one and takes every other, with or without a baud rate. -/
def Obligations.TimSetBaudAndMark : Prop :=
  ∀ (n : Nat) (t : Time) (s : State),
    exec (.timSetBaud 0) s = nextRaised .badOperand s ∧
    (0 < n → exec (.timSetBaud n) s = nextOk { s with baud := some n } .none) ∧
    (∀ last, s.lastAct = some last → t < last → exec (.timMark t) s = nextRaised .badOperand s) ∧
    ((∀ last, s.lastAct = some last → last ≤ t) → exec (.timMark t) s = nextOk { s with lastAct := some t } .none)

/-- R222, R223, R225, R226: `TIM.CHAR` answers the duration `d` with `d·B = 11·10⁶`; `TIM.T35` the least whole number of
microseconds not below `35·10⁶/B`, or 1750 above 19200 baud. -/
def Obligations.TimCharAndT35 : Prop :=
  ∀ s : State,
    (s.baud = none → exec .timChar s = nextRaised .uninit s ∧ exec .timT35 s = nextRaised .uninit s) ∧
    (∀ B, s.baud = some B → 1 ≤ B →
      (∃ d, IsCharTime B d ∧ exec .timChar s = nextOk s (.duration d)) ∧
      (∃ q, IsT35 B q ∧ exec .timT35 s = nextOk s (.duration q)))

/-- R228: `TIM.PRESEND` answers zero with no recorded activity, and otherwise the time left until `LAST_ACT + 2·T3.5`,
zero once that is reached. -/
def Obligations.TimPresendGivesTheSilence : Prop :=
  ∀ (t : Time) (s : State),
    (s.baud = none → exec (.timPresend t) s = nextRaised .uninit s) ∧
    (∀ B, s.baud = some B → s.lastAct = none → exec (.timPresend t) s = nextOk s (.duration 0)) ∧
    (∀ (B : Nat) (last q : Time), s.baud = some B → 1 ≤ B → s.lastAct = some last → IsT35 B q →
      exec (.timPresend t) s = nextOk s (.duration (max 0 (last + 2 * q - t))))

/-- R229, R230: `TIM.POSTSEND` answers `n` character durations and T3.5; `TIM.RXTIME` two and a half times `n` character
durations. -/
def Obligations.TimPostsendAndRxtime : Prop :=
  ∀ (n : Nat) (s : State),
    (s.baud = none → exec (.timPostsend n) s = nextRaised .uninit s ∧ exec (.timRxtime n) s = nextRaised .uninit s) ∧
    (∀ (B : Nat) (d q : Time), s.baud = some B → 1 ≤ B → IsCharTime B d → IsT35 B q →
      exec (.timPostsend n) s = nextOk s (.duration (n * d + q)) ∧
      exec (.timRxtime n) s = nextOk s (.duration (n * d * 5 / 2)))

/-- R231: `TIM.GAP` answers class 0 up to and including T1.5 (one and a half character durations, R224), class 2 from T3.5
on, and class 1 in between. -/
def Obligations.TimGapClassifiesTheSilence : Prop :=
  ∀ (t : Time) (s : State),
    (s.baud = none → exec (.timGap t) s = nextRaised .uninit s) ∧
    (∀ (B : Nat) (d q : Time), s.baud = some B → 1 ≤ B → IsCharTime B d → IsT35 B q →
      (t ≤ 3 / 2 * d → exec (.timGap t) s = nextOk s (.gap .inFrame)) ∧
      (3 / 2 * d < t → t < q → exec (.timGap t) s = nextOk s (.gap .gapViolation)) ∧
      (q ≤ t → exec (.timGap t) s = nextOk s (.gap .frameGap)))

/-- R234: how the durations depend on the baud rate, and the bound on what `TIM.PRESEND` returns. -/
def Obligations.TimingProperties : Prop :=
  (∀ B B' : Nat, 1 ≤ B → B < B' → charUs B' < charUs B ∧ t15Us B' < t15Us B) ∧
    (∀ B B' : Nat, 1 ≤ B → B ≤ B' → t35Us B' ≤ t35Us B) ∧
    t35Us 19200 = 1823 ∧ (∀ B : Nat, 19200 < B → t35Us B = 1750) ∧
    (∀ B : Nat, 1 ≤ B → t15Us B < t35Us B ∧ 1750 ≤ t35Us B) ∧
    (∀ (t : Time) (B : Nat) (last : Time) (s u : State) (w : Time), s.baud = some B → 1 ≤ B → s.lastAct = some last →
      last ≤ t → exec (.timPresend t) s = .next u → u.answer = some ⟨.ok, .duration w⟩ → w ≤ 2 * t35Us B)

/-! ## Initialisation as a law of every step -/

/-- R284 as a step lemma, from every state: only the operation that initialises a unit takes that unit out of its
uninitialised state; so a unit that is uninitialised, with no request for that operation waiting, is so after the step.
The queue of waiting requests is the model's own form (log entry 2). -/
def Obligations.UninitialisedUnitsStayUninitialised : Prop :=
  (∀ (i : Instr) (s t : State), exec i s = .next t →
    (s.crc = none → i ≠ .crcNew → t.crc = none) ∧
    (s.sum = none → i ≠ .lrcNew → t.sum = none) ∧
    (s.slaveM = none → (∀ id, i ≠ .mbapSetSlave id) → t.slaveM = none) ∧
    (s.slaveR = none → (∀ id, i ≠ .rtuSetSlave id) → t.slaveR = none) ∧
    (s.slaveA = none → (∀ id, i ≠ .asciiSetSlave id) → t.slaveA = none) ∧
    (s.pst = .idle → (∀ slave fc deadline, i ≠ .rtupStart slave fc deadline) → t.pst = .idle) ∧
    (s.baud = none → (∀ n, i ≠ .timSetBaud n) → t.baud = none)) ∧
  ∀ s t : State, step s = .next t →
    (s.crc = none ∧ s.NonePending 0x00 → t.crc = none ∧ t.NonePending 0x00) ∧
    (s.sum = none ∧ s.NonePending 0x10 → t.sum = none ∧ t.NonePending 0x10) ∧
    (s.slaveM = none ∧ s.NonePending 0x20 → t.slaveM = none ∧ t.NonePending 0x20) ∧
    (s.slaveR = none ∧ s.NonePending 0x30 → t.slaveR = none ∧ t.NonePending 0x30) ∧
    (s.slaveA = none ∧ s.NonePending 0x40 → t.slaveA = none ∧ t.NonePending 0x40) ∧
    (s.pst = .idle ∧ s.NonePending 0x50 → t.pst = .idle ∧ t.NonePending 0x50) ∧
    (s.baud = none ∧ s.NonePending 0x60 → t.baud = none ∧ t.NonePending 0x60)
end

