-- ==== Sys2Proof/Laws/State.lean ====
section
/-! SUPPORT. The fields of a state after each named update, one lemma a field. -/

namespace Sys2Proof.Machine

open Sys2Proof

variable (s : State) (a : Answer) (r : Request)

@[simp] theorem State.answered_toBlock : (s.answered a).toBlock = s.toBlock := rfl
@[simp] theorem State.answered_requests : (s.answered a).requests = s.requests := rfl
@[simp] theorem State.answered_answer : (s.answered a).answer = some a := rfl
@[simp] theorem State.answered_answered (b : Answer) : (s.answered b).answered a = s.answered a := rfl

@[simp] theorem placeRequest_toBlock : (placeRequest r s).toBlock = s.toBlock := rfl
@[simp] theorem placeRequest_requests : (placeRequest r s).requests = r :: s.requests := rfl
@[simp] theorem placeRequest_answer : (placeRequest r s).answer = s.answer := rfl

@[simp] theorem reset_toBlock : State.reset.toBlock = Block.reset := rfl
@[simp] theorem reset_requests : State.reset.requests = [] := rfl
@[simp] theorem reset_answer : State.reset.answer = none := rfl

end Sys2Proof.Machine
end

