-- ==== Sys2Proof/Laws/Ops.lean ====
section
/-! SUPPORT. One lemma per shared operation: what it answers, so that no later proof unfolds it. -/

namespace Sys2Proof.Machine

open Sys2Proof

/-! ## How an operation ends -/

theorem reply_eq (r : Results) (s : State) : reply r s = .next (s.answered ⟨.ok, r⟩) := rfl

theorem raise_eq (st : Status) (s : State) : raise st s = .next (s.answered ⟨st, .none⟩) := rfl

theorem failParser_eq (st : Status) (s : State) :
    failParser st s = .next (({ s with pst := .failed } : State).answered ⟨st, .none⟩) := rfl

/-- A reply is a next state, and that state is the operation's with the answer delivered. -/
theorem reply_next_iff {r : Results} {s t : State} : reply r s = .next t ↔ t = s.answered ⟨.ok, r⟩ := by
  rw [reply_eq]
  exact ⟨fun h => by injection h with h; exact h.symm, fun h => by rw [h]⟩

/-- A raise is a next state, and that state is the one before with the status delivered. -/
theorem raise_next_iff {st : Status} {s t : State} : raise st s = .next t ↔ t = s.answered ⟨st, .none⟩ := by
  rw [raise_eq]
  exact ⟨fun h => by injection h with h; exact h.symm, fun h => by rw [h]⟩

theorem failParser_next_iff {st : Status} {s t : State} :
    failParser st s = .next t ↔ t = ({ s with pst := .failed } : State).answered ⟨st, .none⟩ := raise_next_iff

@[simp] theorem need_none {α : Type} (s : State) (use : α → Out) : need none s use = raise .uninit s := rfl
@[simp] theorem need_some {α : Type} (v : α) (s : State) (use : α → Out) : need (some v) s use = use v := rfl

/-- What `need` can answer: the element is none and `UNINIT` is raised, or its value is used. -/
theorem need_cases {α : Type} {e : Option α} {s : State} {use : α → Out} {o : Out} (h : need e s use = o) :
    (e = none ∧ o = raise .uninit s) ∨ ∃ v, e = some v ∧ o = use v := by
  subst h
  cases e <;> simp

/-! ## Requests and sequences -/

@[simp] theorem takeRequest_nil {s : State} (h : s.requests = []) : takeRequest s = none := by
  simp [takeRequest, h]

@[simp] theorem takeRequest_cons {s : State} {r : Request} {rest : List Request} (h : s.requests = r :: rest) :
    takeRequest s = some (r, { s with requests := rest }) := by
  simp [takeRequest, h]

@[simp] theorem takeRequest_placeRequest (r : Request) (s : State) : takeRequest (placeRequest r s) = some (r, s) := rfl

@[simp] theorem andThen_next (s : State) (f : State → Out) : andThen (.next s) f = f s := rfl

@[simp] theorem performAll_nil (s : State) : performAll [] s = .next s := rfl

theorem performAll_cons (i : Instr) (rest : List Instr) (s : State) :
    performAll (i :: rest) s = andThen (exec i s) (performAll rest) := rfl

/-- A sequence that completes is its first operation, completed, and the rest of it. -/
theorem performAll_cons_next {i : Instr} {rest : List Instr} {s t : State} (h : performAll (i :: rest) s = .next t) :
    ∃ u, exec i s = .next u ∧ performAll rest u = .next t := by
  rw [performAll_cons] at h
  cases he : exec i s with
  | next u => exact ⟨u, rfl, by rw [he] at h; exact h⟩
  | fault f => rw [he] at h; simp [andThen] at h
  | refused r => rw [he] at h; simp [andThen] at h

/-- A sequence followed by another is the one performed after the other. -/
theorem performAll_append (xs ys : List Instr) (s : State) :
    performAll (xs ++ ys) s = andThen (performAll xs s) (performAll ys) := by
  induction xs generalizing s with
  | nil => rfl
  | cons i rest ih =>
    rw [List.cons_append, performAll_cons, performAll_cons]
    cases exec i s with
    | next u => exact ih u
    | fault f => rfl
    | refused r => rfl

end Sys2Proof.Machine
end

