-- ==== Sys2Proof/Laws/Bytes.lean ====
section
/-! SUPPORT. The byte-string operations: indexing and slicing (00_scope.md R10), the two bytes of a 16-bit value (R9), and
the hexadecimal characters (30_encoding.md R95, R96). -/

namespace Sys2Proof.Machine

open Sys2Proof

/-! ## Indexing -/

@[simp] theorem byteAt_cons_zero (b : Byte) (S : Bytes) : byteAt (b :: S) 0 = b := rfl

@[simp] theorem byteAt_cons_succ (b : Byte) (S : Bytes) (i : Nat) : byteAt (b :: S) (i + 1) = byteAt S i := by
  simp [byteAt]

theorem byteAt_append_right (S T : Bytes) (i : Nat) : byteAt (S ++ T) (S.length + i) = byteAt T i := by
  simp only [byteAt, List.getD_eq_getElem?_getD, List.getElem?_append_right (Nat.le_add_right _ _), Nat.add_sub_cancel_left]

theorem byteAt_of_getElem? {S : Bytes} {i : Nat} {b : Byte} (h : S[i]? = some b) : byteAt S i = b := by
  simp [byteAt, List.getD_eq_getElem?_getD, h]

/-- The slice in the middle of three strings is the middle one. -/
theorem slice_middle (P S T : Bytes) (j : Nat) (h : j + 1 = P.length + S.length) :
    slice (P ++ S ++ T) P.length j = S := by
  simp [slice, h]

/-! ## The two bytes of a 16-bit value -/

@[simp] theorem toNat_lo8 (v : Word16) : (lo8 v).toNat = v.toNat % 256 := by
  simp [lo8]

@[simp] theorem toNat_hi8 (v : Word16) : (hi8 v).toNat = v.toNat / 256 := by
  have := v.isLt
  simp only [hi8, BitVec.extractLsb'_toNat, Nat.shiftRight_eq_div_pow]
  omega

@[simp] theorem toNat_u16be (h l : Byte) : (u16be h l).toNat = h.toNat * 256 + l.toNat := by
  have := l.isLt
  rw [u16be, BitVec.toNat_append, ← Nat.shiftLeft_add_eq_or_of_lt this, Nat.shiftLeft_eq]

@[simp] theorem toNat_u16le (l h : Byte) : (u16le l h).toNat = l.toNat + h.toNat * 256 := by
  rw [u16le, ← u16be, toNat_u16be, Nat.add_comm]

/-- Splitting a 16-bit value into its bytes and rebuilding it gives it back (R52). -/
@[simp] theorem u16be_hi8_lo8 (v : Word16) : u16be (hi8 v) (lo8 v) = v := by
  apply BitVec.eq_of_toNat_eq
  rw [toNat_u16be, toNat_hi8, toNat_lo8]
  omega

@[simp] theorem u16le_lo8_hi8 (v : Word16) : u16le (lo8 v) (hi8 v) = v := u16be_hi8_lo8 v

/-! ## Hexadecimal characters -/

@[simp] theorem hex2_length (b : Byte) : (hex2 b).length = 2 := rfl

@[simp] theorem hexstr_nil : hexstr [] = [] := rfl

theorem hexstr_cons (b : Byte) (S : Bytes) : hexstr (b :: S) = hex2 b ++ hexstr S := rfl

theorem hexstr_append (S T : Bytes) : hexstr (S ++ T) = hexstr S ++ hexstr T := List.flatMap_append

@[simp] theorem hexstr_length (S : Bytes) : (hexstr S).length = 2 * S.length := by
  induction S with
  | nil => rfl
  | cons b S ih => rw [hexstr_cons, List.length_append, hex2_length, ih, List.length_cons]; omega

/-- A nibble's character decodes to the nibble, whether or not lower case is accepted. -/
theorem unhex1_hexchar (lowerOk : Bool) (n : BitVec 4) : unhex1 lowerOk (hexchar n) = some (n.setWidth 8) := by
  revert lowerOk n
  decide

/-- The two characters of a byte decode to the byte. -/
theorem unhex2_hex2 (lowerOk : Bool) (b : Byte) :
    unhex2 lowerOk (hexchar (b.extractLsb' 4 4)) (hexchar (b.extractLsb' 0 4)) = some b := by
  rw [unhex2, unhex1_hexchar, unhex1_hexchar]
  have := b.isLt
  refine congrArg some (BitVec.eq_of_toNat_eq ?_)
  simp [Nat.shiftRight_eq_div_pow]
  omega

/-- The characters of a byte string decode to the byte string. -/
theorem unhexPairs_hexstr (lowerOk : Bool) (S : Bytes) : unhexPairs lowerOk (hexstr S) = some S := by
  induction S with
  | nil => rfl
  | cons b S ih =>
    rw [hexstr_cons, hex2]
    simp only [List.cons_append, List.nil_append, unhexPairs, unhex2_hex2, ih, Option.map_some]

end Sys2Proof.Machine
end

