-- ==== Sys2Proof/Laws/Checksum.lean ====
section
/-! SUPPORT. The checksum folds (40_checksum.md R111, R113, R119 to R121): how they take an empty string, one more byte
and a concatenation. -/

namespace Sys2Proof.Machine

open Sys2Proof

@[simp] theorem crcFold_nil (c : Word16) : crcFold c [] = c := rfl

@[simp] theorem crcFold_cons (c : Word16) (b : Byte) (S : Bytes) : crcFold c (b :: S) = crcFold (crcStep c b) S := rfl

theorem crcFold_append (c : Word16) (S T : Bytes) : crcFold c (S ++ T) = crcFold (crcFold c S) T :=
  List.foldl_append

theorem crc16_append (S T : Bytes) : crc16 (S ++ T) = crcFold (crc16 S) T := crcFold_append _ S T

/-- A round that shifts out a 0 only halves. -/
theorem crcBit_of_even {c : Word16} (h : c.getLsbD 0 = false) : crcBit c = c >>> 1 := by
  rw [crcBit, h]; rfl

/-- A round that shifts out a 1 also XORs the polynomial. -/
theorem crcBit_of_odd {c : Word16} (h : c.getLsbD 0 = true) : crcBit c = (c >>> 1) ^^^ crcPoly := by
  rw [crcBit, h]; rfl

@[simp] theorem lrcFold_nil (v : Byte) : lrcFold v [] = v := rfl

@[simp] theorem lrcFold_cons (v b : Byte) (S : Bytes) : lrcFold v (b :: S) = lrcFold (v + b) S := rfl

theorem lrcFold_append (v : Byte) (S T : Bytes) : lrcFold v (S ++ T) = lrcFold (lrcFold v S) T := List.foldl_append

/-- The sum of a string on top of a value is the value plus the string's own sum. -/
theorem lrcFold_eq_add (v : Byte) (S : Bytes) : lrcFold v S = v + lrcFold 0 S := by
  induction S generalizing v with
  | nil => simp
  | cons b S ih => rw [lrcFold_cons, lrcFold_cons, ih (v + b), ih (0 + b), zero_add, add_assoc]

/-- `(256 - SUM) mod 256` is the two's complement (R120). -/
theorem lrcNeg_eq_neg (v : Byte) : lrcNeg v = -v := by
  apply BitVec.eq_of_toNat_eq
  simp [lrcNeg]

end Sys2Proof.Machine
end

