-- ==== Sys2Proof/Laws/Parser.lean ====
section
/-! SUPPORT. The RTU parser's operations by what they can do: inactive, too late, or the rule of the state
(44_rtu_parser.md R192, R193); and the layouts of the function codes (30_encoding.md R90). -/

namespace Sys2Proof.Machine

open Sys2Proof

/-- A function code has one of three layouts or none. -/
theorem layoutOf_cases (fc : Byte) :
    layoutOf fc = some .counted ∨ layoutOf fc = some (.fixed 4) ∨ layoutOf fc = some (.fixed 6) ∨ layoutOf fc = none := by
  simp only [layoutOf]
  split_ifs <;> simp

theorem replyParse_done {s : State} (h : s.pst = .done) : replyParse s = reply (.parsed s.pbuf) s := if_pos h

theorem replyParse_parsing {s : State} (h : s.pst ≠ .done) : replyParse s = reply .parsing s := if_neg h

theorem execRtupByte_inactive {s : State} (b : Byte) (now : Time) (h : s.pst.working = false) :
    execRtupByte b now s = raise .parserNotActive s := if_neg (by rw [h]; exact Bool.false_ne_true)

theorem execRtupByte_late {s : State} (b : Byte) {now : Time} (h : s.pst.working = true) (hl : s.pdl < now) :
    execRtupByte b now s = failParser .deadlineExceeded s := by
  rw [execRtupByte, if_pos h, if_pos hl]

theorem execRtupByte_slaveId {s : State} (b : Byte) {now : Time} (h : s.pst = .slaveId) (hl : now ≤ s.pdl) :
    execRtupByte b now s = inSlaveId b s := by
  rw [execRtupByte, if_pos (by rw [h]; rfl), if_neg (not_lt.2 hl), h]

theorem execRtupByte_functionCode {s : State} (b : Byte) {now : Time} (h : s.pst = .functionCode) (hl : now ≤ s.pdl) :
    execRtupByte b now s = inFunctionCode b s := by
  rw [execRtupByte, if_pos (by rw [h]; rfl), if_neg (not_lt.2 hl), h]

theorem execRtupByte_readLength {s : State} (b : Byte) {now : Time} (h : s.pst = .readLength) (hl : now ≤ s.pdl) :
    execRtupByte b now s = inReadLength b s := by
  rw [execRtupByte, if_pos (by rw [h]; rfl), if_neg (not_lt.2 hl), h]

theorem execRtupByte_readPayload {s : State} (b : Byte) {now : Time} (h : s.pst = .readPayload) (hl : now ≤ s.pdl) :
    execRtupByte b now s = inReadPayload b s := by
  rw [execRtupByte, if_pos (by rw [h]; rfl), if_neg (not_lt.2 hl), h]

theorem execRtupByte_crc {s : State} (b : Byte) {now : Time} (h : s.pst = .crc) (hl : now ≤ s.pdl) :
    execRtupByte b now s = inCrc b s := by
  rw [execRtupByte, if_pos (by rw [h]; rfl), if_neg (not_lt.2 hl), h]

theorem execRtupTick_inactive {s : State} (t : Time) (h : s.pst.working = false) :
    execRtupTick t s = raise .parserNotActive s := if_neg (by rw [h]; exact Bool.false_ne_true)

theorem execRtupTick_late {s : State} {t : Time} (h : s.pst.working = true) (hl : s.pdl < t) :
    execRtupTick t s = failParser .deadlineExceeded s := by
  rw [execRtupTick, if_pos h, if_pos hl]

theorem execRtupTick_inTime {s : State} {t : Time} (h : s.pst.working = true) (hl : t ≤ s.pdl) :
    execRtupTick t s = reply (.remaining (s.pdl - t)) s := by
  rw [execRtupTick, if_pos h, if_neg (not_lt.2 hl)]

end Sys2Proof.Machine
end

