-- ==== Sys2Proof/Laws/PerInstr.lean ====
section
/-! SUPPORT. The facts stated of every operation as syntax, one lemma a constructor. -/

namespace Sys2Proof.Laws.RowReadsRecord

open Sys2Proof

/-- The selector of the operation's record selects a row of the operation map (R72) whose format has the operands of the
record, and whose reader gives the operation back. -/
def Statement (i : Instr) : Prop :=
  ∃ row ∈ opMap, rowOf (encode i).op = some row ∧ row.op = (encode i).op ∧ row.read (encode i).operands = some i

theorem crcNew : Statement .crcNew :=
  ⟨_, List.mem_of_getElem? (i := 0) rfl, rfl, rfl, rfl⟩

theorem crcPush (bytes : Bytes) : Statement (.crcPush bytes) :=
  ⟨_, List.mem_of_getElem? (i := 1) rfl, rfl, rfl, rfl⟩

theorem crcValue : Statement .crcValue :=
  ⟨_, List.mem_of_getElem? (i := 2) rfl, rfl, rfl, rfl⟩

theorem lrcNew : Statement .lrcNew :=
  ⟨_, List.mem_of_getElem? (i := 3) rfl, rfl, rfl, rfl⟩

theorem lrcPush (bytes : Bytes) : Statement (.lrcPush bytes) :=
  ⟨_, List.mem_of_getElem? (i := 4) rfl, rfl, rfl, rfl⟩

theorem lrcValue : Statement .lrcValue :=
  ⟨_, List.mem_of_getElem? (i := 5) rfl, rfl, rfl, rfl⟩

theorem mbapSetSlave (id : Byte) : Statement (.mbapSetSlave id) :=
  ⟨_, List.mem_of_getElem? (i := 6) rfl, rfl, rfl, rfl⟩

theorem mbapEncode (fc : Byte) (data : Bytes) : Statement (.mbapEncode fc data) :=
  ⟨_, List.mem_of_getElem? (i := 7) rfl, rfl, rfl, rfl⟩

theorem mbapDecode (adu : Bytes) : Statement (.mbapDecode adu) :=
  ⟨_, List.mem_of_getElem? (i := 8) rfl, rfl, rfl, rfl⟩

theorem mbapVerify (req resp : Bytes) : Statement (.mbapVerify req resp) :=
  ⟨_, List.mem_of_getElem? (i := 9) rfl, rfl, rfl, rfl⟩

theorem mbapHdr (hdr : Bytes) : Statement (.mbapHdr hdr) :=
  ⟨_, List.mem_of_getElem? (i := 10) rfl, rfl, rfl, rfl⟩

theorem rtuSetSlave (id : Byte) : Statement (.rtuSetSlave id) :=
  ⟨_, List.mem_of_getElem? (i := 11) rfl, rfl, rfl, rfl⟩

theorem rtuEncode (fc : Byte) (data : Bytes) : Statement (.rtuEncode fc data) :=
  ⟨_, List.mem_of_getElem? (i := 12) rfl, rfl, rfl, rfl⟩

theorem rtuDecode (adu : Bytes) : Statement (.rtuDecode adu) :=
  ⟨_, List.mem_of_getElem? (i := 13) rfl, rfl, rfl, rfl⟩

theorem rtuVerify (req resp : Bytes) : Statement (.rtuVerify req resp) :=
  ⟨_, List.mem_of_getElem? (i := 14) rfl, rfl, rfl, rfl⟩

theorem asciiSetSlave (id : Byte) : Statement (.asciiSetSlave id) :=
  ⟨_, List.mem_of_getElem? (i := 15) rfl, rfl, rfl, rfl⟩

theorem asciiEncode (fc : Byte) (data : Bytes) : Statement (.asciiEncode fc data) :=
  ⟨_, List.mem_of_getElem? (i := 16) rfl, rfl, rfl, rfl⟩

theorem asciiDecode (adu : Bytes) : Statement (.asciiDecode adu) :=
  ⟨_, List.mem_of_getElem? (i := 17) rfl, rfl, rfl, rfl⟩

theorem asciiVerify (req resp : Bytes) : Statement (.asciiVerify req resp) :=
  ⟨_, List.mem_of_getElem? (i := 18) rfl, rfl, rfl, rfl⟩

theorem asciiScan (stream : Bytes) : Statement (.asciiScan stream) :=
  ⟨_, List.mem_of_getElem? (i := 19) rfl, rfl, rfl, rfl⟩

theorem rtupStart (slave fc : Byte) (deadline : Time) : Statement (.rtupStart slave fc deadline) :=
  ⟨_, List.mem_of_getElem? (i := 20) rfl, rfl, rfl, rfl⟩

theorem rtupByte (b : Byte) (now : Time) : Statement (.rtupByte b now) :=
  ⟨_, List.mem_of_getElem? (i := 21) rfl, rfl, rfl, rfl⟩

theorem rtupTick (t : Time) : Statement (.rtupTick t) :=
  ⟨_, List.mem_of_getElem? (i := 22) rfl, rfl, rfl, rfl⟩

theorem timSetBaud (n : Nat) : Statement (.timSetBaud n) :=
  ⟨_, List.mem_of_getElem? (i := 23) rfl, rfl, rfl, rfl⟩

theorem timChar : Statement .timChar :=
  ⟨_, List.mem_of_getElem? (i := 24) rfl, rfl, rfl, rfl⟩

theorem timT35 : Statement .timT35 :=
  ⟨_, List.mem_of_getElem? (i := 25) rfl, rfl, rfl, rfl⟩

theorem timMark (t : Time) : Statement (.timMark t) :=
  ⟨_, List.mem_of_getElem? (i := 26) rfl, rfl, rfl, rfl⟩

theorem timPresend (t : Time) : Statement (.timPresend t) :=
  ⟨_, List.mem_of_getElem? (i := 27) rfl, rfl, rfl, rfl⟩

theorem timPostsend (n : Nat) : Statement (.timPostsend n) :=
  ⟨_, List.mem_of_getElem? (i := 28) rfl, rfl, rfl, rfl⟩

theorem timRxtime (n : Nat) : Statement (.timRxtime n) :=
  ⟨_, List.mem_of_getElem? (i := 29) rfl, rfl, rfl, rfl⟩

theorem timGap (t : Time) : Statement (.timGap t) :=
  ⟨_, List.mem_of_getElem? (i := 30) rfl, rfl, rfl, rfl⟩

end Sys2Proof.Laws.RowReadsRecord
end

