-- ==== Sys2Proof/Laws/Times.lean ====
section
/-! SUPPORT. The durations of the timing unit (45_timing.md R222 to R224) as equations and bounds, without the division
and the ceiling of their definitions. -/

namespace Sys2Proof.Machine

open Sys2Proof

theorem baud_pos {B : Nat} (h : 1 ≤ B) : (0 : Rat) < B := by positivity

/-- A character duration times the baud rate is the eleven bits of a character, in microseconds. -/
theorem charUs_mul {B : Nat} (h : 1 ≤ B) : charUs B * B = 11000000 := div_mul_cancel₀ _ (baud_pos h).ne'

/-- Above the knee T3.5 is fixed. -/
theorem t35Us_above {B : Nat} (h : baudKnee < B) : t35Us B = t35Fixed := if_neg (not_le.2 h)

/-- Up to the knee T3.5 is the ceiling of the formula. -/
theorem t35Us_upto {B : Nat} (h : B ≤ baudKnee) : t35Us B = ((⌈35000000 / (B : Rat)⌉ : Int) : Rat) := if_pos h

/-- T3.5 up to the knee is not below the formula's quotient. -/
theorem le_t35Us_mul {B : Nat} (h1 : 1 ≤ B) (h : B ≤ baudKnee) : 35000000 ≤ t35Us B * B := by
  rw [t35Us_upto h, ← div_le_iff₀ (baud_pos h1)]
  exact Int.le_ceil _

end Sys2Proof.Machine
end

