-- ==== Sys2Proof/Machine/Asm.lean ====
section
/-! DEFINITION. The assembler syntax (30_encoding.md R75): the one line a request is written as, `MNEMONIC operand,
operand, ...`.  Nothing in the machine reads it. -/

namespace Sys2Proof.Machine

open Sys2Proof

def hexDigit (n : Nat) : Char :=
  if n ≤ 9 then Char.ofNat (0x30 + n) else Char.ofNat (0x41 + (n - 10))

/-- A byte as a hexadecimal pair: `6B`. -/
def asmPair (b : Byte) : String := String.ofList [hexDigit (b.toNat / 16), hexDigit (b.toNat % 16)]

/-- A byte string "in braces as hexadecimal byte pairs" (the braces are the characters 0x7B and 0x7D). -/
def asmBytes (S : Bytes) : String :=
  String.ofList [Char.ofNat 0x7B] ++ String.intercalate " " (S.map asmPair) ++ String.ofList [Char.ofNat 0x7D]

/-- "A time is a decimal number or a fraction of two decimals, in microseconds: `3646` or `6875/6`." -/
def asmTime (t : Time) : String :=
  if t.den = 1 then toString t.num else toString t.num ++ "/" ++ toString t.den

def asmOperand : Operand → String
  | .byte b => "0x" ++ asmPair b
  | .bytes S => asmBytes S
  | .nat n => toString n
  | .time t => asmTime t

/-- "Mnemonics are upper case, the unit and the operation joined by a full stop." -/
def mnemonic (i : Instr) : String :=
  match rowOf (encode i).op with
  | some row => row.mnemonic
  | none => ""

/-- The line of an operation. -/
def asmLine (i : Instr) : String :=
  match (encode i).operands with
  | [] => mnemonic i
  | xs => mnemonic i ++ " " ++ String.intercalate ", " (xs.map asmOperand)

end Sys2Proof.Machine
end

