-- ==== Sys2Proof/Tests/Slice0.lean ====
section
/-! SUPPORT. The model's own tests.  Every expected value is the spec's: the vectors of 95_test_vectors.md and the rows of
30_encoding.md R72; the witnesses show that the hypotheses of each statement can be met. -/

namespace Sys2Proof.Tests

open Sys2Proof Sys2Proof.Machine

set_option Elab.async false

/-- The answer an operation ended with. -/
def said : Out → Option Answer
  | .next t => t.answer
  | .fault _ => none
  | .refused _ => none

/-- The block an operation left. -/
def left : Out → Option Block
  | .next t => some t.toBlock
  | .fault _ => none
  | .refused _ => none

def isNext (o : Out) : Bool :=
  match o with
  | .next _ => true
  | .fault _ => false
  | .refused _ => false

def ok (r : Results) : Option Answer := some ⟨.ok, r⟩
def no (st : Status) : Option Answer := some ⟨st, .none⟩

/-- A state that differs from reset in its block only. -/
def block (b : Block) : State := { State.reset with toBlock := b }

def zeros (n : Nat) : Bytes := List.replicate n 0

/-! ## WellFormed: an ill-formed term for each check, refused -/

theorem test_wf_rtupStart : wellFormed (.rtupStart 0x11 0x03 (-1)) = false := by decide +kernel
theorem test_wf_rtupByte : wellFormed (.rtupByte 0x11 (-1)) = false := by decide +kernel
theorem test_wf_rtupTick : wellFormed (.rtupTick (-1 / 2)) = false := by decide +kernel
theorem test_wf_timMark : wellFormed (.timMark (-1)) = false := by decide +kernel
theorem test_wf_timPresend : wellFormed (.timPresend (-1)) = false := by decide +kernel
theorem test_wf_timGap : wellFormed (.timGap (-1)) = false := by decide +kernel
theorem test_wf_zero_is_a_time : wellFormed (.rtupTick 0) = true := by decide +kernel

/-! ## Decoding: the records of R72, written out -/

theorem test_decode_crc :
    decode ⟨0x00, []⟩ = .ok .crcNew ∧ decode ⟨0x01, [.bytes [0x11, 0x03]]⟩ = .ok (.crcPush [0x11, 0x03]) ∧ decode
    ⟨0x02, []⟩ = .ok .crcValue := by decide +kernel
theorem test_decode_lrc :
    decode ⟨0x10, []⟩ = .ok .lrcNew ∧ decode ⟨0x11, [.bytes [0xF7]]⟩ = .ok (.lrcPush [0xF7]) ∧ decode ⟨0x12, []⟩ =
    .ok .lrcValue := by decide +kernel
theorem test_decode_mbap :
    decode ⟨0x20, [.byte 0x11]⟩ = .ok (.mbapSetSlave 0x11) ∧ decode ⟨0x21, [.byte 0x03, .bytes [0x6B]]⟩ = .ok
    (.mbapEncode 0x03 [0x6B]) ∧ decode ⟨0x22, [.bytes [0x01]]⟩ = .ok (.mbapDecode [0x01]) ∧ decode ⟨0x23, [.bytes
    [0x01], .bytes [0x02]]⟩ = .ok (.mbapVerify [0x01] [0x02]) ∧ decode ⟨0x24, [.bytes [0x07]]⟩ = .ok (.mbapHdr
    [0x07]) := by decide +kernel
theorem test_decode_rtu :
    decode ⟨0x30, [.byte 0x11]⟩ = .ok (.rtuSetSlave 0x11) ∧ decode ⟨0x31, [.byte 0x03, .bytes [0x6B]]⟩ = .ok
    (.rtuEncode 0x03 [0x6B]) ∧ decode ⟨0x32, [.bytes [0x01]]⟩ = .ok (.rtuDecode [0x01]) ∧ decode ⟨0x33, [.bytes
    [0x01], .bytes [0x02]]⟩ = .ok (.rtuVerify [0x01] [0x02]) := by decide +kernel
theorem test_decode_ascii :
    decode ⟨0x40, [.byte 0x11]⟩ = .ok (.asciiSetSlave 0x11) ∧ decode ⟨0x41, [.byte 0x03, .bytes [0x6B]]⟩ = .ok
    (.asciiEncode 0x03 [0x6B]) ∧ decode ⟨0x42, [.bytes [0x01]]⟩ = .ok (.asciiDecode [0x01]) ∧ decode ⟨0x43, [.bytes
    [0x01], .bytes [0x02]]⟩ = .ok (.asciiVerify [0x01] [0x02]) ∧ decode ⟨0x44, [.bytes [0x0D]]⟩ = .ok (.asciiScan
    [0x0D]) := by decide +kernel
theorem test_decode_rtup :
    decode ⟨0x50, [.byte 0x11, .byte 0x03, .time 30000]⟩ = .ok (.rtupStart 0x11 0x03 30000) ∧ decode ⟨0x51, [.byte
    0x11, .time 100]⟩ = .ok (.rtupByte 0x11 100) ∧ decode ⟨0x52, [.time (60001 / 2)]⟩ = .ok (.rtupTick (60001 / 2))
    := by decide +kernel
theorem test_decode_tim :
    decode ⟨0x60, [.nat 9600]⟩ = .ok (.timSetBaud 9600) ∧ decode ⟨0x61, []⟩ = .ok .timChar ∧ decode ⟨0x62, []⟩ = .ok
    .timT35 ∧ decode ⟨0x63, [.time 1000]⟩ = .ok (.timMark 1000) ∧ decode ⟨0x64, [.time 5000]⟩ = .ok (.timPresend
    5000) ∧ decode ⟨0x65, [.nat 8]⟩ = .ok (.timPostsend 8) ∧ decode ⟨0x66, [.nat 7]⟩ = .ok (.timRxtime 7) ∧ decode
    ⟨0x67, [.time 1718]⟩ = .ok (.timGap 1718) := by decide +kernel
theorem test_decode_reserved_edges :
    ∀ op ∈ ([0x03, 0x0F, 0x13, 0x1F, 0x25, 0x2F, 0x34, 0x3F, 0x45, 0x4F, 0x53, 0x5F, 0x68, 0x6F, 0x70, 0xFF] :
    Bytes), decode ⟨op, []⟩ = .error .reservedSelector := by decide +kernel
theorem test_decode_wrong_operands :
    decode ⟨0x00, [.byte 0x01]⟩ = .error .malformedOperands ∧ decode ⟨0x50, [.byte 0x11, .byte 0x03]⟩ = .error
    .malformedOperands ∧ decode ⟨0x67, [.time (-1)]⟩ = .error .malformedOperands := by decide +kernel
theorem test_table_words :
    decodeTableWord 8 0x21 = some (.mbapEncode 0x00 []) ∧ decodeTableWord 8 0x50 = some (.rtupStart 0x00 0x00 0) ∧
    decodeTableWord 8 0x03 = none := by decide +kernel
theorem test_fetch_word :
    said (step (State.reset.withFetchWord 8 0x12)) = no .uninit ∧ said (step (State.reset.withFetchWord 8 0x70)) =
    no .illegalOp := by decide +kernel
theorem test_asm_line :
    asmLine (.mbapEncode 0x03 [0x00, 0x6B]) = "MBAP.ENCODE 0x03, " ++ asmBytes [0x00, 0x6B] ∧ asmLine (.rtupTick
    (60001 / 2)) = "RTUP.TICK 60001/2" := by decide +kernel

/-! ## CRC unit (V-C1 to V-C11) -/

theorem test_crc_new :
    left (exec .crcNew State.reset) = some { Block.reset with crc := some 0xFFFF } := by decide +kernel
theorem test_crc_push :
    left (exec (.crcPush [0x01]) (block { Block.reset with crc := some 0xFFFF })) = some
    { Block.reset with crc := some 0x807E } := by decide +kernel
theorem test_crc_push_uninit : said (exec (.crcPush []) State.reset) = no .uninit := by decide +kernel
theorem test_crc_value :
    said (exec .crcValue (block { Block.reset with crc := some 0x8776 })) = ok (.crcValue 0x8776) :=
    by decide +kernel
theorem test_crc16_values :
    crc16 [] = 0xFFFF ∧ crc16 [0xFF] = 0x00FF ∧ crc16 [0x31, 0x32, 0x33, 0x34, 0x35, 0x36, 0x37, 0x38, 0x39] =
    0x4B37 ∧ crc16 [0x11, 0x03, 0x00, 0x6B, 0x00, 0x03] = 0x8776 ∧ crc16 [0x01, 0x03, 0x00, 0x6B, 0x00, 0x03] =
    0x1774 ∧ crc16 [0x11, 0x83, 0x02, 0xC1, 0x34] = 0x0000 := by decide +kernel

/-! ## LRC unit (V-L1 to V-L6) -/

theorem test_lrc_new : left (exec .lrcNew State.reset) = some { Block.reset with sum := some 0x00 } := by decide +kernel
theorem test_lrc_push_wraps :
    left (exec (.lrcPush [0x80]) (block { Block.reset with sum := some 0x80 })) = some
    { Block.reset with sum := some 0x00 } := by decide +kernel
theorem test_lrc_value :
    said (exec .lrcValue (block { Block.reset with sum := some 0x0F })) = ok (.lrcValue 0xF1) := by decide +kernel
theorem test_lrc_value_zero :
    said (exec .lrcValue (block { Block.reset with sum := some 0x00 })) = ok (.lrcValue 0x00) := by decide +kernel
theorem test_lrc8_values :
    lrc8 [0x01, 0x03, 0x01, 0x0A] = 0xF1 ∧ lrc8 [0x11, 0x03, 0x00, 0x6B, 0x00, 0x03] = 0x7E ∧ lrc8 [0xF7, 0x03,
    0x13, 0x89, 0x00, 0x0A] = 0x60 := by decide +kernel

/-! ## MBAP framer (V-M1 to V-M8) -/

theorem test_mbap_setslave :
    left (exec (.mbapSetSlave 0x11) State.reset) = some { Block.reset with slaveM := some 0x11 } :=
    by decide +kernel
theorem test_mbap_encode :
    said (exec (.mbapEncode 0x03 [0x00, 0x04, 0x00, 0x03]) (block { Block.reset with slaveM := some 0x00 })) = ok
    (.mbapAdu [0x00, 0x01, 0x00, 0x00, 0x00, 0x06, 0x00, 0x03, 0x00, 0x04, 0x00, 0x03] 0x0001) := by decide +kernel
theorem test_mbap_encode_wraps :
    left (exec (.mbapEncode 0x04 [0x00, 0x08, 0x00, 0x01]) (block
    { Block.reset with slaveM := some 0x11, txc := 0xFFFFFFFF })) = some
    { Block.reset with slaveM := some 0x11, txc := 0x00000000 } := by decide +kernel
theorem test_mbap_decode :
    said (exec (.mbapDecode [0x00, 0x01, 0x00, 0x00, 0x00, 0x06, 0x11, 0x03, 0x00, 0x78, 0x00, 0x03]) State.reset) =
    ok (.pdu 0x03 [0x00, 0x78, 0x00, 0x03]) := by decide +kernel
theorem test_mbap_decode_length_zero :
    said (exec (.mbapDecode [0x00, 0x01, 0x00, 0x00, 0x00, 0x00, 0x11, 0x03]) State.reset) = no .lengthMismatch :=
    by decide +kernel
theorem test_mbap_verify :
    said (exec (.mbapVerify [0x00, 0x02, 0x00, 0x00, 0x00, 0x06, 0x11, 0x03, 0x00, 0x6B, 0x00, 0x03] [0x00, 0x02,
    0x00, 0x00, 0xFF, 0xFF, 0x11, 0x99]) State.reset) = ok .none := by decide +kernel
theorem test_mbap_verify_txid :
    said (exec (.mbapVerify [0x00, 0x02, 0x00, 0x00, 0x00, 0x06, 0x11, 0x03, 0x00, 0x6B, 0x00, 0x03] [0x00, 0x01,
    0x00, 0x01, 0x00, 0x05, 0x12, 0x03, 0x02, 0xCA, 0xFE]) State.reset) = no (.txidMismatch 0x0001 0x0002) :=
    by decide +kernel
theorem test_mbap_hdr :
    said (exec (.mbapHdr [0x00, 0x01, 0x00, 0x00, 0x00, 0xFE, 0x11]) State.reset) = ok (.bodyLen 253) :=
    by decide +kernel
theorem test_mbap_hdr_length_255 :
    said (exec (.mbapHdr [0x00, 0x01, 0x00, 0x00, 0x00, 0xFF, 0x11]) State.reset) = no .headerLength :=
    by decide +kernel

/-! ## RTU framer (V-R1 to V-R7) -/

theorem test_rtu_setslave :
    left (exec (.rtuSetSlave 0x00) State.reset) = some { Block.reset with slaveR := some 0x00 } := by decide +kernel
theorem test_rtu_encode :
    said (exec (.rtuEncode 0x03 [0x00, 0x6B, 0x00, 0x03]) (block { Block.reset with slaveR := some 0x11 })) = ok
    (.adu [0x11, 0x03, 0x00, 0x6B, 0x00, 0x03, 0x76, 0x87]) := by decide +kernel
theorem test_rtu_decode :
    said (exec (.rtuDecode [0x11, 0x03, 0x06, 0xAE, 0x41, 0x56, 0x52, 0x43, 0x40, 0x49, 0xAD]) State.reset) = ok
    (.pdu 0x03 [0x06, 0xAE, 0x41, 0x56, 0x52, 0x43, 0x40]) := by decide +kernel
theorem test_rtu_decode_swapped_crc :
    said (exec (.rtuDecode [0x11, 0x03, 0x06, 0xAE, 0x41, 0x56, 0x52, 0x43, 0x40, 0xAD, 0x49]) State.reset) = no
    .checksumMismatch := by decide +kernel
theorem test_rtu_verify :
    said (exec (.rtuVerify [0x11] [0x11, 0x83, 0x02, 0x00, 0x00]) State.reset) = ok .none := by decide +kernel
theorem test_rtu_verify_size_first :
    said (exec (.rtuVerify [0x11] [0x12, 0x83, 0x02]) State.reset) = no .frameTooShort := by decide +kernel

/-! ## ASCII framer (V-A1 to V-A8) -/

theorem test_ascii_setslave :
    left (exec (.asciiSetSlave 0xF7) State.reset) = some { Block.reset with slaveA := some 0xF7 } :=
    by decide +kernel
/-- `:1103006B00037E`, CR LF. -/
theorem test_ascii_encode :
    said (exec (.asciiEncode 0x03 [0x00, 0x6B, 0x00, 0x03]) (block { Block.reset with slaveA := some 0x11 })) = ok
    (.adu [0x3A, 0x31, 0x31, 0x30, 0x33, 0x30, 0x30, 0x36, 0x42, 0x30, 0x30, 0x30, 0x33, 0x37, 0x45, 0x0D, 0x0A]) :=
    by decide +kernel
/-- `:F7031389000A60`, CR LF. -/
theorem test_ascii_decode :
    said (exec (.asciiDecode [0x3A, 0x46, 0x37, 0x30, 0x33, 0x31, 0x33, 0x38, 0x39, 0x30, 0x30, 0x30, 0x41, 0x36,
    0x30, 0x0D, 0x0A]) State.reset) = ok (.pdu 0x03 [0x13, 0x89, 0x00, 0x0A]) := by decide +kernel
/-- `:110302cafe22`, CR LF: refused when the parameter is false, decoded when it is true. -/
theorem test_ascii_decode_lower :
    said (asciiDecodeWith false [0x3A, 0x31, 0x31, 0x30, 0x33, 0x30, 0x32, 0x63, 0x61, 0x66, 0x65, 0x32, 0x32, 0x0D,
    0x0A] State.reset) = no .hexInvalid ∧ said (asciiDecodeWith true [0x3A, 0x31, 0x31, 0x30, 0x33, 0x30, 0x32,
    0x63, 0x61, 0x66, 0x65, 0x32, 0x32, 0x0D, 0x0A] State.reset) = ok (.pdu 0x03 [0x02, 0xCA, 0xFE]) :=
    by decide +kernel
/-- `>110302CAFE22`, CR LF, against the request's first three characters `:11`. -/
theorem test_ascii_verify :
    said (exec (.asciiVerify [0x3A, 0x31, 0x31] [0x3E, 0x31, 0x31, 0x30, 0x33, 0x30, 0x32, 0x43, 0x41, 0x46, 0x45,
    0x32, 0x32, 0x0D, 0x0A]) State.reset) = ok .none := by decide +kernel
/-- `!120302CAFE2`, CR LF: several faults, the first in test order. -/
theorem test_ascii_verify_boundary :
    said (exec (.asciiVerify [0x3A, 0x31, 0x31] [0x21, 0x31, 0x32, 0x30, 0x33, 0x30, 0x32, 0x43, 0x41, 0x46, 0x45,
    0x32, 0x0D, 0x0A]) State.reset) = no .asciiBoundary := by decide +kernel
/-- `:0103FC`, CR LF, `:99`: the surplus is not returned. -/
theorem test_ascii_scan :
    said (exec (.asciiScan [0x3A, 0x30, 0x31, 0x30, 0x33, 0x46, 0x43, 0x0D, 0x0A, 0x3A, 0x39, 0x39]) State.reset) =
    ok (.scanned [0x3A, 0x30, 0x31, 0x30, 0x33, 0x46, 0x43, 0x0D, 0x0A] .crlf) := by decide +kernel
/-- CR at index 512 and LF at index 513 are not seen. -/
theorem test_ascii_scan_limit :
    said (exec (.asciiScan (zeros 512 ++ [0x0D, 0x0A])) State.reset) = ok (.scanned (zeros 512 ++ [0x0D]) .maxSize)
    := by decide +kernel

/-! ## RTU parser (V-P1 to V-P11) -/

/-- The parser's registers in the middle of a parse that expects slave 0x11, code 0x03, until time 30000. -/
def parsing (pst : PState) (pbuf : Bytes) (prem : Nat) : Block :=
  { Block.reset with pst := pst, pslave := 0x11, pfc := 0x03, pdl := 30000, pbuf := pbuf, prem := prem }

theorem test_rtup_start :
    left (exec (.rtupStart 0x11 0x03 30000) (block (parsing .readPayload [0x11, 0x03, 0x02] 2))) = some (parsing
    .slaveId [] 0) := by decide +kernel
theorem test_rtup_byte_at_deadline :
    left (exec (.rtupByte 0x03 30000) (block (parsing .functionCode [0x11] 0))) = some (parsing .readLength [0x11,
    0x03] 0) := by decide +kernel
theorem test_rtup_byte_done :
    said (exec (.rtupByte 0xA7 6100) (block (parsing .crc [0x11, 0x03, 0x02, 0xCA, 0xFE, 0xAE] 1))) = ok (.parsed
    [0x11, 0x03, 0x02, 0xCA, 0xFE, 0xAE, 0xA7]) := by decide +kernel
theorem test_rtup_tick :
    said (exec (.rtupTick 29999) (block (parsing .functionCode [0x11] 0))) = ok (.remaining 1) := by decide +kernel
theorem test_rtup_tick_late :
    left (exec (.rtupTick (60001 / 2)) (block (parsing .slaveId [] 0))) = some (parsing .failed [] 0) :=
    by decide +kernel

/-! ## Timing unit (V-T1 to V-T8; R233) -/

/-- The timing unit at a baud rate, with activity recorded at time 1000. -/
def line (baud : Nat) : State := block { Block.reset with baud := some baud, lastAct := some 1000 }

theorem test_tim_setbaud :
    left (exec (.timSetBaud 9600) State.reset) = some { Block.reset with baud := some 9600 } ∧ said (exec
    (.timSetBaud 0) State.reset) = no .badOperand := by decide +kernel
theorem test_tim_char : said (exec .timChar (line 9600)) = ok (.duration (6875 / 6)) := by decide +kernel
theorem test_tim_t35 :
    said (exec .timT35 (line 19200)) = ok (.duration 1823) ∧ said (exec .timT35 (line 19201)) = ok (.duration 1750)
    := by decide +kernel
theorem test_tim_mark :
    said (exec (.timMark 999) (line 9600)) = no .badOperand ∧ said (exec (.timMark 1000) (line 9600)) = ok .none :=
    by decide +kernel
theorem test_tim_presend :
    said (exec (.timPresend 5000) (line 9600)) = ok (.duration 3292) ∧ said (exec (.timPresend 8292) (line 9600)) =
    ok (.duration 0) := by decide +kernel
theorem test_tim_postsend :
    said (exec (.timPostsend 8) (line 9600)) = ok (.duration (38438 / 3)) ∧ said (exec (.timPostsend 0) (line 9600))
    = ok (.duration 3646) := by decide +kernel
theorem test_tim_rxtime :
    said (exec (.timRxtime 7) (line 9600)) = ok (.duration (240625 / 12)) ∧ said (exec (.timRxtime 7) (line 19201))
    = ok (.duration (27500000 / 2743)) := by decide +kernel
theorem test_tim_gap :
    said (exec (.timGap (6875 / 4)) (line 9600)) = ok (.gap .inFrame) ∧ said (exec (.timGap 1719) (line 9600)) = ok
    (.gap .gapViolation) ∧ said (exec (.timGap 3646) (line 9600)) = ok (.gap .frameGap) := by decide +kernel

/-! ## Witnesses: states and operands that meet the hypotheses of the statements, one clause after another -/

theorem witness_StepRunsTheDecodedRequest :
    ({ State.reset with requests := [⟨0x01, [.bytes [0x11]]⟩, ⟨0x02, []⟩] } : State).requests = ⟨0x01, [.bytes
    [0x11]]⟩ :: [⟨0x02, []⟩] ∧ decode ⟨0x01, [.bytes [0x11]]⟩ = .ok (.crcPush [0x11]) := by decide +kernel
theorem witness_StepIdlesAndStopsOnMalformedRequests :
    State.reset.requests = [] ∧ (placeRequest ⟨0x67, [.time (-1)]⟩ State.reset).requests = ⟨0x67, [.time (-1)]⟩ ::
    [] ∧ decode ⟨0x67, [.time (-1)]⟩ = .error .malformedOperands := by decide +kernel
theorem witness_ReservedSelectorsAreRefused :
    (placeRequest ⟨0x03, []⟩ State.reset).requests = ⟨0x03, []⟩ :: [] ∧ decode ⟨0x03, []⟩ = .error .reservedSelector
    ∧ decode ⟨0xFF, []⟩ = .error .reservedSelector ∧ decode ⟨0x02, []⟩ ≠ .error .reservedSelector ∧ decode ⟨0x67,
    []⟩ ≠ .error .reservedSelector := by decide +kernel
theorem witness_DecodeOfEncode :
    wellFormed (.rtupStart 0xFF 0xFF 0) = true ∧ wellFormed (.rtuVerify [] [0x00]) = true := by decide +kernel
theorem witness_RecordsHaveOneMeaning :
    decode ⟨0x50, [.byte 0xFF, .byte 0xFF, .time 0]⟩ = .ok (.rtupStart 0xFF 0xFF 0) := by decide +kernel
theorem witness_QueueRunsInIssueOrder :
    ∀ i ∈ [Instr.crcNew, .crcPush [0x11], .timMark 0, .crcValue], wellFormed i = true := by decide +kernel
theorem witness_StatusesAreThoseOfTheTable :
    isNext (exec (.crcPush []) State.reset) = true ∧ said (exec (.crcPush []) State.reset) = no .uninit :=
    by decide +kernel
theorem witness_EveryListedStatusIsReturned :
    Status.hexInvalid.code ∈ statusCodes (.asciiDecode []) ∧ Status.parserNotActive.code ∈ statusCodes (.rtupTick 0)
    := by decide +kernel
theorem witness_StatusCodesDiscriminate :
    (Status.txidMismatch 0x0001 0x0002).code = (Status.txidMismatch 0x0003 0x0004).code ∧ Status.ok.code =
    Status.ok.code := by decide +kernel
theorem witness_RaisingChangesNothing :
    said (exec (.rtupByte 0x00 2100) (block (parsing .readLength [0x11, 0x03] 0))) = no .invalidLength ∧ said (exec
    (.rtupByte 0x03 30001) (block (parsing .functionCode [0x11] 0))) = no .deadlineExceeded ∧ said (exec
    (.mbapEncode 0x03 []) State.reset) = no .uninit := by decide +kernel
theorem witness_OperationsChangeOnlyTheirElements :
    isNext (exec (.crcPush [0x01]) (block { Block.reset with crc := some 0xFFFF })) = true ∧ Elem.sum ∉ writes
    (.crcPush [0x01]) ∧ Elem.prem ∉ writes (.rtupTick 0) := by decide +kernel
theorem witness_RepeatedIssues :
    changesNothing (.timGap 0) = true ∧ changesNothing (.asciiEncode 0x03 []) = true ∧ idempotent (.timMark 5) =
    true ∧ idempotent (.rtupStart 0x11 0x03 0) = true := by decide +kernel
theorem witness_AnswersDependOnlyOnReadElements :
    (∀ e ∈ reads (.crcPush [0x01]), (block { Block.reset with crc := some 1 }).toBlock.Agree { Block.reset with crc := some 1, txc := 7 } e) ∧
      (block { Block.reset with crc := some 1 }).toBlock ≠ { Block.reset with crc := some 1, txc := 7 } := by
  refine ⟨?_, by decide +kernel⟩
  simp [reads, Block.Agree, block]
/-- A run in which no unit has been initialised, and operations that need nothing. -/
theorem witness_UnitsRefuseUntilInitialised :
    isNext (performAll [.mbapHdr [], .timMark 0, .asciiScan []] State.reset) = true ∧ (zeros 252).length ≤ 252 ∧
      Instr.crcNew ∉ [Instr.mbapHdr [], .timMark 0, .asciiScan []] ∧
      Instr.lrcNew ∉ [Instr.mbapHdr [], .timMark 0, .asciiScan []] ∧
      (∀ id, Instr.mbapSetSlave id ∉ [Instr.mbapHdr [], .timMark 0, .asciiScan []]) ∧
      (∀ id, Instr.rtuSetSlave id ∉ [Instr.mbapHdr [], .timMark 0, .asciiScan []]) ∧
      (∀ id, Instr.asciiSetSlave id ∉ [Instr.mbapHdr [], .timMark 0, .asciiScan []]) ∧
      (∀ slave fc deadline, Instr.rtupStart slave fc deadline ∉ [Instr.mbapHdr [], .timMark 0, .asciiScan []]) ∧
      (∀ n, Instr.timSetBaud n ∉ [Instr.mbapHdr [], .timMark 0, .asciiScan []]) ∧ needsInit .timChar = true ∧
      needsInit (.timSetBaud 0) = false :=
  ⟨by decide +kernel, by decide +kernel, by simp [needsInit]⟩
/-- States that meet the invariant at its bounds: a buffer that will be exactly 256 bytes long, and the last CRC byte of
the shortest frame. -/
theorem witness_StepKeepsTheInvariant :
    (placeRequest ⟨0x51, [.byte 0x55, .time 0]⟩ (block (parsing .readPayload [0x11, 0x03, 0xFB] 251))).Inv ∧
      isNext (step (placeRequest ⟨0x51, [.byte 0x55, .time 0]⟩
        (block (parsing .readPayload [0x11, 0x03, 0xFB] 251)))) = true ∧
      (block (parsing .crc [0x11, 0x83, 0x02, 0xC1] 1)).Inv := by
  refine ⟨⟨⟨by decide, by decide, ⟨0x03, [0xFB], rfl, .inl rfl⟩, by decide⟩, ?_⟩, by decide +kernel,
    ⟨⟨by decide, by decide, ⟨0x83, [0x02, 0xC1], rfl, .inr (by decide)⟩, by decide, by decide⟩, ?_⟩⟩ <;>
    · refine ⟨?_, by simp [block, parsing, placeRequest, Block.reset], by simp [block, parsing, placeRequest, Block.reset]⟩
      simp [block, parsing, placeRequest]
theorem witness_LegalAfterEveryRun :
    isNext (Host.Core.run Sys2Proof.core 2
    ({ State.reset with requests := [⟨0x50, [.byte 0x11, .byte 0x03, .time 5]⟩, ⟨0x51, [.byte 0x11, .time 5]⟩] } :
    State)) = true := by decide +kernel
theorem witness_CrcOperationsFollowTheirRules :
    State.reset.crc = none ∧ (block { Block.reset with crc := some 0xFFFF }).crc = some 0xFFFF := by decide +kernel
theorem witness_CrcPushIsIncremental : (block { Block.reset with crc := some 0x0000 }).crc ≠ none := by decide +kernel
theorem witness_CrcDetectsOneChangedByte : (0x00 : Byte) ≠ 0x01 := by decide +kernel
theorem witness_LrcOperationsFollowTheirRules :
    State.reset.sum = none ∧ (block { Block.reset with sum := some 0xFF }).sum = some 0xFF := by decide +kernel
theorem witness_LrcLaws :
    (block { Block.reset with sum := some 0x00 }).sum ≠ none ∧ ([0x01, 0x02] : Bytes).Perm [0x02, 0x01] :=
    by decide +kernel
theorem witness_MbapEncodeBuildsTheFrame :
    252 < (zeros 253).length ∧ (zeros 252).length ≤ 252 ∧ State.reset.slaveM = none ∧ (block
    { Block.reset with slaveM := some 0x11 }).slaveM = some 0x11 := by decide +kernel
theorem witness_MbapTransactionIdsAreSuccessive :
    said (exec (.mbapEncode 0x03 []) (block { Block.reset with slaveM := some 0x00, txc := 0xFFFE })) = ok (.mbapAdu
    [0xFF, 0xFF, 0x00, 0x00, 0x00, 0x02, 0x00, 0x03] 0xFFFF) ∧ isNext (performAll [.mbapEncode 0x03 (zeros 253),
    .crcNew] (block { Block.reset with slaveM := some 0x00, txc := 0xFFFF })) = true ∧ 252 < (zeros 253).length ∧
    said (exec (.mbapEncode 0x03 []) (block { Block.reset with slaveM := some 0x00, txc := 0xFFFF })) = ok (.mbapAdu
    [0x00, 0x00, 0x00, 0x00, 0x00, 0x02, 0x00, 0x03] 0x0000) := by decide +kernel
theorem witness_MbapDecodeChecksTheLength :
    260 < (zeros 261).length ∧ (zeros 7).length < 8 ∧ (zeros 252).length ≤ 252 ∧ (0x00 : Byte).toNat * 256 + (0xFE :
    Byte).toNat = 2 + (zeros 252).length ∧ (0x00 : Byte).toNat * 256 + (0xFF : Byte).toNat ≠ 2 + (zeros 252).length
    := by decide +kernel
theorem witness_MbapVerifyComparesIdentity :
    260 < (zeros 261).length ∧ (zeros 6).length < 7 ∧ (zeros 260).length ≤ 260 ∧ 7 ≤ (zeros 7).length ∧ (zeros
    253).length ≤ 253 ∧ ¬((0x00 : Byte) = 0x00 ∧ (0x01 : Byte) = 0x02) ∧ ¬((0x01 : Byte) = 0x02 ∧ (0x00 : Byte) =
    0x00) ∧ (0x12 : Byte) ≠ 0x11 ∧ (0x11 : Byte) = 0x11 := by decide +kernel
theorem witness_MbapHdrGivesTheBodyLength :
    (zeros 6).length ≠ 7 ∧ (zeros 8).length ≠ 7 ∧ (0x00 : Byte).toNat * 256 + (0x00 : Byte).toNat = 0 ∧ 254 < (0x00
    : Byte).toNat * 256 + (0xFF : Byte).toNat ∧ 1 ≤ (0x00 : Byte).toNat * 256 + (0x01 : Byte).toNat ∧ (0x00 :
    Byte).toNat * 256 + (0xFE : Byte).toNat ≤ 254 := by decide +kernel
theorem witness_MbapRoundTrip : (zeros 252).length ≤ 252 ∧ (zeros 0).length ≤ 252 := by decide +kernel
theorem witness_MbapLengthInvariant :
    isNext (exec (.mbapEncode 0x07 []) (block { Block.reset with slaveM := some 0x01 })) = true ∧ said (exec
    (.mbapEncode 0x07 []) (block { Block.reset with slaveM := some 0x01 })) = ok (.mbapAdu [0x00, 0x01, 0x00, 0x00,
    0x00, 0x02, 0x01, 0x07] 0x0001) := by decide +kernel
theorem witness_RtuEncodeBuildsTheFrame :
    252 < (zeros 253).length ∧ (zeros 252).length ≤ 252 ∧ State.reset.slaveR = none ∧ (block
    { Block.reset with slaveR := some 0x11 }).slaveR = some 0x11 := by decide +kernel
theorem witness_RtuEncodedFrameLaws :
    isNext (exec (.rtuEncode 0x07 []) (block { Block.reset with slaveR := some 0x01 })) = true ∧ said (exec
    (.rtuEncode 0x07 []) (block { Block.reset with slaveR := some 0x01 })) = ok (.adu [0x01, 0x07, 0x41, 0xE2]) :=
    by decide +kernel
theorem witness_RtuDecodeChecksTheCrc :
    256 < (zeros 257).length ∧ (zeros 3).length < 4 ∧ (zeros 252).length ≤ 252 ∧ (0x41 : Byte).toNat + (0xE2 :
    Byte).toNat * 256 = natCrc 0xFFFF [0x01, 0x07] ∧ (0xE2 : Byte).toNat + (0x41 : Byte).toNat * 256 ≠ natCrc 0xFFFF
    [0x01, 0x07] := by decide +kernel
theorem witness_RtuVerifyComparesTheSlave :
    256 < (zeros 257).length ∧ (zeros 256).length ≤ 256 ∧ [0x11] ≠ ([] : Bytes) ∧ (zeros 3).length < 4 ∧ (zeros
    255).length ≤ 255 ∧ 3 ≤ (zeros 3).length ∧ (0x12 : Byte) ≠ 0x11 ∧ (0x11 : Byte) = 0x11 := by decide +kernel
theorem witness_RtuRoundTripAndErrorDetection :
    (zeros 252).length ≤ 252 ∧ [0x01, 0x07, 0x41, 0xE2] = [0x01, 0x07, 0x41] ++ [(0xE2 : Byte)] ++ [] ∧ (0xE3 :
    Byte) ≠ 0xE2 := by decide +kernel
theorem witness_AsciiEncodeBuildsTheFrame :
    252 < (zeros 253).length ∧ (zeros 252).length ≤ 252 ∧ State.reset.slaveA = none ∧ (block
    { Block.reset with slaveA := some 0x11 }).slaveA = some 0x11 := by decide +kernel
theorem witness_AsciiEncodedFrameLaws :
    isNext (exec (.asciiEncode 0x03 []) (block { Block.reset with slaveA := some 0x01 })) = true ∧ said (exec
    (.asciiEncode 0x03 []) (block { Block.reset with slaveA := some 0x01 })) = ok (.adu [0x3A, 0x30, 0x31, 0x30,
    0x33, 0x46, 0x43, 0x0D, 0x0A]) := by decide +kernel
theorem witness_AsciiDecodeChecksTheLrc :
    (zeros 252).length ≤ 252 ∧ (byteSum [0x01, 0x03] + (0xFC : Byte).toNat) % 256 = 0 ∧ (byteSum [0x01, 0x03] +
    (0xFD : Byte).toNat) % 256 ≠ 0 := by decide +kernel
theorem witness_AsciiVerifyChecksTheBoundaries :
    513 < (zeros 514).length ∧ (zeros 2).length < 3 ∧ (zeros 513).length ≤ 513 ∧ 3 ≤ (zeros 3).length ∧ (zeros
    8).length < 9 ∧ 9 ≤ (zeros 10).length ∧ ((zeros 10).length - 1) % 2 = 1 ∧ (zeros 510).length ≤ 510 ∧ 4 ≤ (zeros
    4).length ∧ (zeros 508).length ≤ 508 ∧ (zeros 508).length % 2 = 0 ∧ (0x21 : Byte) ≠ 0x3A ∧ (0x21 : Byte) ≠ 0x3E
    ∧ ¬((0x0A : Byte) = 0x0D ∧ (0x0D : Byte) = 0x0A) ∧ ¬((0x31 : Byte) = 0x31 ∧ (0x32 : Byte) = 0x31) :=
    by decide +kernel
theorem witness_AsciiRoundTrip : (zeros 252).length ≤ 252 ∧ (zeros 0).length ≤ 252 := by decide +kernel
theorem witness_EncodedFramesFitTheMaximumSizes :
    isNext (exec (.rtuEncode 0x03 (zeros 252)) (block { Block.reset with slaveR := some 0x01 })) = true ∧ isNext
    (exec (.mbapEncode 0x03 []) (block { Block.reset with slaveM := some 0x01 })) = true ∧ said (exec (.mbapEncode
    0x03 []) (block { Block.reset with slaveM := some 0x01 })) = ok (.mbapAdu [0x00, 0x01, 0x00, 0x00, 0x00, 0x02,
    0x01, 0x03] 0x0001) ∧ said (exec (.rtuEncode 0x07 []) (block { Block.reset with slaveR := some 0x01 })) = ok
    (.adu [0x01, 0x07, 0x41, 0xE2]) ∧ said (exec (.asciiEncode 0x03 []) (block
    { Block.reset with slaveA := some 0x01 })) = ok (.adu [0x3A, 0x30, 0x31, 0x30, 0x33, 0x46, 0x43, 0x0D, 0x0A]) :=
    by decide +kernel
theorem witness_PseudoOperationsExpand :
    said (pseudoRtuCheck [0x11] [0x11, 0x83, 0x02, 0xC1, 0x34] State.reset) = ok (.pdu 0x83 [0x02]) ∧ said (exec
    (.rtuVerify [0x12] [0x11, 0x83, 0x02, 0xC1, 0x34]) State.reset) = no .slaveidMismatch := by decide +kernel
/-- A frame with no accepted digit at offset 1, at both bounds of the readable lengths. -/
theorem witness_AsciiDecodeRejectsUnreadableFrames :
    ¬IsHexDigit Config.hexLowerOk 0x00 ∧
      513 < (zeros 514).length ∧ (zeros 8).length < 9 ∧ 9 ≤ (zeros 10).length ∧ ((zeros 10).length - 1) % 2 = 1 ∧
      9 ≤ (zeros 9).length ∧ (zeros 513).length ≤ 513 ∧ ((zeros 513).length - 1) % 2 = 0 ∧ (zeros 9)[1]? = some 0x00 ∧
      1 ≤ (zeros 9).length - 3 :=
  ⟨by simp [IsHexDigit], by decide +kernel⟩
/-- A CR LF at the end of the window of 513 characters, one just past it, and none. -/
theorem witness_AsciiScanFindsTheFrameEnd :
    CrlfAt (zeros 511 ++ [0x0D, 0x0A]) 512 ∧ CrlfAt (zeros 512 ++ [0x0D, 0x0A]) 513 ∧ ¬CrlfAt (zeros 513) 512 ∧
      (zeros 512 ++ [0x0D, 0x0A]).length = 514 ∧ 513 ≤ (zeros 513).length ∧ (zeros 512).length < 513 ∧
      (∀ k, k < 513 → ¬CrlfAt (zeros 513) k) := by
  simp only [CrlfAt]
  decide +kernel
/-- Legal states of the parser, one a row of the transition table, at the bounds of `PREM`. -/
theorem witness_ParserFollowsTheTransitionTable :
    (block (parsing .slaveId [] 0)).toBlock.Legal ∧ (block (parsing .functionCode [0x11] 0)).toBlock.Legal ∧
      (block (parsing .readLength [0x11, 0x03] 0)).toBlock.Legal ∧
      (block (parsing .readPayload [0x11, 0x03, 0xFB] 251)).toBlock.Legal ∧
      (block (parsing .readPayload [0x11, 0x83] 1)).toBlock.Legal ∧ (block (parsing .crc [0x11, 0x83, 0x02] 2)).toBlock.Legal ∧
      (block (parsing .crc [0x11, 0x83, 0x02, 0xC1] 1)).toBlock.Legal ∧
      (block (parsing .done [0x11, 0x83, 0x02, 0xC1, 0x34] 0)).toBlock.Legal ∧ (block (parsing .failed [] 0)).toBlock.Legal ∧
      State.reset.toBlock.Legal := by
  simp [Block.Legal, block, parsing, Block.reset, State.reset]
/-- Every condition of the table's rows on the byte, the function code and the time can be met. -/
theorem witness_rows_of_the_transition_table :
    (0x11 : Byte) = (parsing .slaveId [] 0).pslave ∧ (0x12 : Byte) ≠ (parsing .slaveId [] 0).pslave ∧
      (parsing .functionCode [0x11] 0).pfc ∈ readFamily ∧ (0x10 : Byte) ∈ writeFamily ∧
      ((0x2B : Byte) ∉ readFamily ∧ (0x2B : Byte) ∉ writeFamily ∧ (0x2B : Byte) ≠ 0x16) ∧
      ((0x83 : Byte) ≠ 0x03 ∧ (0x83 : Byte) = 0x03 ||| 0x80) ∧ ((0x04 : Byte) ≠ 0x03 ∧ (0x04 : Byte) ≠ 0x03 ||| 0x80) ∧
      1 ≤ (0x01 : Byte).toNat ∧ (0xFB : Byte).toNat ≤ 251 ∧ (0x00 : Byte).toNat = 0 ∧ 252 ≤ (0xFC : Byte).toNat ∧
      (parsing .slaveId [] 0).pdl < 30001 ∧ (30000 : Time) ≤ (parsing .slaveId [] 0).pdl := by
  decide +kernel
theorem witness_RtupTickTestsTheDeadline :
    State.reset.pst = .idle ∧ (block (parsing .crc [0x11, 0x83, 0x02] 2)).pst.working = true ∧ (parsing .crc [0x11,
    0x83, 0x02] 2).pdl < 30001 ∧ (30000 : Time) ≤ (parsing .crc [0x11, 0x83, 0x02] 2).pdl := by decide +kernel
theorem witness_RtupDiscardsNoise :
    (block (parsing .slaveId [] 0)).pst = .slaveId ∧ ([100, 1100] : List Time).length = ([0x00, 0xFF] :
    Bytes).length ∧ (∀ c ∈ ([0x00, 0xFF] : Bytes), c ≠ (parsing .slaveId [] 0).pslave) ∧ (∀ t ∈ ([100, 30000] : List
    Time), t ≤ (parsing .slaveId [] 0).pdl) ∧ (0x11 : Byte) = (parsing .slaveId [] 0).pslave ∧ (30000 : Time) ≤
    (parsing .slaveId [] 0).pdl := by decide +kernel
/-- A payload of each layout, the counted one at both bounds, and times that meet the deadline. -/
theorem witness_RtupParsesWholeResponses :
    (PayloadOf 0x03 [0x01, 0x55] ∧ PayloadOf 0x18 (0xFB :: zeros 251) ∧ PayloadOf 0x06 [0x00, 0x01, 0x00, 0x03] ∧
      PayloadOf 0x16 (zeros 6)) ∧ (List.replicate 10 (30000 : Time)).length = (zeros 6).length + 4 ∧
      (∀ t ∈ List.replicate 10 (30000 : Time), t ≤ 30000) ∧ (0x7F : Byte).toNat < 0x80 ∧
      (List.replicate 5 (0 : Time)).length = 5 ∧ ∀ t ∈ List.replicate 5 (0 : Time), t ≤ 0 := by
  have len (n : Nat) : (zeros n).length = n := List.length_replicate
  refine ⟨?_, by decide +kernel⟩
  simp [PayloadOf, readFamily, writeFamily, len]
/-- For `TimCharAndT35`, `TimPresendGivesTheSilence` and `TimPostsendAndRxtime`: no baud rate, 9600 baud with and without
recorded activity, and a T3.5 on either side of the knee. -/
theorem witness_durations :
    State.reset.baud = none ∧ (line 9600).baud = some 9600 ∧ (line 9600).lastAct = some 1000 ∧
      (block { Block.reset with baud := some 1 }).lastAct = none ∧ IsCharTime 9600 (6875 / 6) ∧ IsT35 9600 3646 ∧
      IsT35 19200 1823 ∧ IsT35 19201 1750 := by
  have least {k : Nat} (B : Nat) (hB : B ≤ 19200) (h : 35000000 ≤ k * B) (hk : ∀ j, 35000000 ≤ j * B → k ≤ j) :
      IsT35 B k := ⟨fun _ => ⟨k, rfl, h, hk⟩, fun hn => absurd hB (Nat.not_le.2 hn)⟩
  have char : IsCharTime 9600 (6875 / 6) := by rw [IsCharTime]; norm_num
  have slow : IsT35 9600 3646 := least (k := 3646) 9600 (by simp) (by simp) (by omega)
  have knee : IsT35 19200 1823 := least (k := 1823) 19200 (by simp) (by simp) (by omega)
  have fast : IsT35 19201 1750 := ⟨fun hn => absurd hn (by simp), fun _ => rfl⟩
  simp [char, slow, knee, fast, line, block, State.reset, Block.reset]
theorem witness_TimSetBaudAndMark :
    0 < 1 ∧ (line 9600).lastAct = some 1000 ∧ (999 : Time) < 1000 ∧ (1000 : Time) ≤ 1000 ∧ State.reset.lastAct =
    none := by decide +kernel
theorem witness_TimGapClassifiesTheSilence :
    (6875 / 4 : Time) ≤ 3 / 2 * (6875 / 6) ∧ (3 / 2 * (6875 / 6) : Time) < 1719 ∧ (1719 : Time) < 3646 ∧ (3646 :
    Time) ≤ 3646 := by decide +kernel
theorem witness_TimingProperties :
    1 ≤ 1 ∧ 1 < 2 ∧ 19200 < 19201 ∧ (line 9600).baud = some 9600 ∧ (1000 : Time) ≤ 1000 ∧ isNext (exec (.timPresend
    1000) (line 9600)) = true ∧ said (exec (.timPresend 1000) (line 9600)) = ok (.duration 7292) :=
    by decide +kernel
/-- A state with every unit uninitialised and two requests waiting, none of which initialises a unit. -/
theorem witness_UninitialisedUnitsStayUninitialised :
    let s : State := { State.reset with requests := [⟨0x63, [.time 0]⟩, ⟨0x02, []⟩] }
    isNext (step s) = true ∧ s.crc = none ∧ s.sum = none ∧ s.slaveM = none ∧ s.slaveR = none ∧ s.slaveA = none ∧
      s.pst = .idle ∧ s.baud = none ∧ ∀ op ∈ ([0x00, 0x10, 0x20, 0x30, 0x40, 0x50, 0x60] : Bytes), s.NonePending op := by
  refine ⟨by decide +kernel, ?_⟩
  simp [State.NonePending, State.reset, Block.reset]

end Sys2Proof.Tests
end

section
/-! SUPPORT. Two outcomes with the same answer, and which states an operation answers alike in (10_state.md R23, R36).
One rule per way an operation ends or branches, so that the proof for an operation follows its definition. -/

namespace Sys2Proof.Machine

open Sys2Proof

/-- Both operations complete, and the host receives the same answer from either. -/
def SameAnswer (o o' : Out) : Prop := ∃ t t', o = .next t ∧ o' = .next t' ∧ t'.answer = t.answer

namespace SameAnswer

theorem reply {r : Results} {s s' : State} : SameAnswer (reply r s) (reply r s') := ⟨_, _, rfl, rfl, rfl⟩

theorem raise {st : Status} {s s' : State} : SameAnswer (raise st s) (raise st s') := ⟨_, _, rfl, rfl, rfl⟩

theorem ite {p : Prop} [Decidable p] {a a' b b' : Out} (ha : SameAnswer a a') (hb : SameAnswer b b') :
    SameAnswer (if p then a else b) (if p then a' else b') := by
  by_cases hp : p
  · rwa [if_pos hp, if_pos hp]
  · rwa [if_neg hp, if_neg hp]

theorem need {α : Type} {e e' : Option α} {s s' : State} {use use' : α → Out} (he : e = e')
    (hu : ∀ v, SameAnswer (use v) (use' v)) : SameAnswer (need e s use) (need e' s' use') := by
  subst he
  cases e with
  | none => exact raise
  | some v => exact hu v

end SameAnswer

/-! ## The framers' decoders and verifiers: the answer depends on the operands alone -/

section

variable (s s' : State)

theorem execMbapDecode_sameAnswer (adu : Bytes) : SameAnswer (execMbapDecode adu s) (execMbapDecode adu s') :=
  .ite .raise (.ite .raise (.ite .raise .reply))

theorem execMbapVerify_sameAnswer (req resp : Bytes) :
    SameAnswer (execMbapVerify req resp s) (execMbapVerify req resp s') :=
  .ite .raise (.ite .raise (.ite .raise (.ite .raise (.ite .raise (.ite .raise .reply)))))

theorem execMbapHdr_sameAnswer (hdr : Bytes) : SameAnswer (execMbapHdr hdr s) (execMbapHdr hdr s') :=
  .ite .raise (.ite .raise .reply)

theorem execRtuDecode_sameAnswer (adu : Bytes) : SameAnswer (execRtuDecode adu s) (execRtuDecode adu s') :=
  .ite .raise (.ite .raise (.ite .raise .reply))

theorem execRtuVerify_sameAnswer (req resp : Bytes) :
    SameAnswer (execRtuVerify req resp s) (execRtuVerify req resp s') :=
  .ite .raise (.ite .raise (.ite .raise (.ite .raise .reply)))

theorem asciiDecodeWith_sameAnswer (lowerOk : Bool) (adu : Bytes) :
    SameAnswer (asciiDecodeWith lowerOk adu s) (asciiDecodeWith lowerOk adu s') := by
  refine .ite .raise (.ite .raise (.ite .raise ?_))
  cases unhexPairs lowerOk (slice adu 1 (adu.length - 3)) with
  | none => exact .raise
  | some bin => exact .ite .raise .reply

theorem execAsciiVerify_sameAnswer (req resp : Bytes) :
    SameAnswer (execAsciiVerify req resp s) (execAsciiVerify req resp s') :=
  .ite .raise (.ite .raise (.ite .raise (.ite .raise (.ite .raise (.ite .raise (.ite .raise .reply))))))

theorem execAsciiScan_sameAnswer (stream : Bytes) :
    SameAnswer (execAsciiScan stream s) (execAsciiScan stream s') := by
  unfold execAsciiScan
  cases crlfEnd (stream.take asciiMax) with
  | some n => exact .reply
  | none => exact .ite .reply .reply

end

/-! ## The operations that read an element: the answer depends on the operands and that element -/

section

variable {s s' : State}

theorem execMbapEncode_sameAnswer (fc : Byte) (data : Bytes) (ht : s.txc = s'.txc) (hm : s.slaveM = s'.slaveM) :
    SameAnswer (execMbapEncode fc data s) (execMbapEncode fc data s') := by
  unfold execMbapEncode
  rw [ht]
  exact .ite .raise (.need hm fun _ => .reply)

theorem execTimMark_sameAnswer (t : Time) (h : s.lastAct = s'.lastAct) :
    SameAnswer (execTimMark t s) (execTimMark t s') := by
  unfold execTimMark
  rw [h]
  cases s'.lastAct with
  | none => exact .reply
  | some last => exact .ite .raise .reply

theorem execTimPresend_sameAnswer (t : Time) (hb : s.baud = s'.baud) (h : s.lastAct = s'.lastAct) :
    SameAnswer (execTimPresend t s) (execTimPresend t s') := by
  unfold execTimPresend
  rw [h]
  refine .need hb fun B => ?_
  cases s'.lastAct with
  | none => exact .reply
  | some last => exact .ite .reply .reply

/-- R36, for every operation but `RTUP.BYTE` and `RTUP.TICK`, the two that read the deadline. -/
theorem exec_sameAnswer_of_agree {i : Instr} (hi : Elem.pdl ∉ reads i)
    (h : ∀ e ∈ reads i, s.toBlock.Agree s'.toBlock e) : SameAnswer (exec i s) (exec i s') := by
  cases i <;> simp only [reads, List.forall_mem_cons, Block.Agree] at h
  case crcNew | lrcNew | mbapSetSlave | rtuSetSlave | asciiSetSlave | rtupStart => exact .reply
  case crcPush | crcValue | lrcPush | lrcValue | timChar | timT35 | timPostsend | timRxtime =>
    exact .need h.1 fun _ => .reply
  case rtuEncode | asciiEncode => exact .ite .raise (.need h.1 fun _ => .reply)
  case timSetBaud => exact .ite .raise .reply
  case timGap => exact .need h.1 fun _ => .ite .reply (.ite .reply .reply)
  case mbapEncode fc data =>
    obtain ⟨htxc, hslave, -⟩ := h
    exact execMbapEncode_sameAnswer fc data htxc hslave
  case mbapDecode adu => exact execMbapDecode_sameAnswer s s' adu
  case mbapVerify req resp => exact execMbapVerify_sameAnswer s s' req resp
  case mbapHdr hdr => exact execMbapHdr_sameAnswer s s' hdr
  case rtuDecode adu => exact execRtuDecode_sameAnswer s s' adu
  case rtuVerify req resp => exact execRtuVerify_sameAnswer s s' req resp
  case asciiDecode adu => exact asciiDecodeWith_sameAnswer s s' _ adu
  case asciiVerify req resp => exact execAsciiVerify_sameAnswer s s' req resp
  case asciiScan stream => exact execAsciiScan_sameAnswer s s' stream
  case timMark t => exact execTimMark_sameAnswer t h.1
  case timPresend t =>
    obtain ⟨hbaud, hlast, -⟩ := h
    exact execTimPresend_sameAnswer t hbaud hlast
  case rtupByte | rtupTick => exact absurd (by simp [reads]) hi

end

/-! ## `PSLAVE`, `PFC` and `PDL` while no parse is in progress -/

/-- With no parse in progress (R192, R193) no operation's answer depends on what the parser last expected. -/
theorem exec_sameAnswer_of_inactive (i : Instr) {s : State} (slave fc : Byte) (deadline : Time)
    (h : s.pst.working = false) :
    SameAnswer (exec i s) (exec i { s with pslave := slave, pfc := fc, pdl := deadline }) := by
  cases i with
  | rtupByte b now =>
    rw [exec, execRtupByte_inactive b now h, exec, execRtupByte_inactive b now (by exact h)]
    exact .raise
  | rtupTick t =>
    rw [exec, execRtupTick_inactive t h, exec, execRtupTick_inactive t (by exact h)]
    exact .raise
  | _ => exact exec_sameAnswer_of_agree (by simp [reads]) (by simp [reads, Block.Agree])

/-- Settles O1: the reset column is read off the reset state, and the parser is inactive there. -/
theorem resetHoldsTheSpecsValues : Obligations.ResetHoldsTheSpecsValues :=
  ⟨rfl, rfl, rfl, rfl, rfl, rfl, rfl, rfl, rfl, rfl, rfl, fun i slave fc deadline =>
    exec_sameAnswer_of_inactive i slave fc deadline rfl⟩

end Sys2Proof.Machine
end

section
/-! SUPPORT. The reserved selectors (30_encoding.md R73): the selectors without a row in the operation map, and the step
on a request with one. -/

namespace Sys2Proof

/-- The eight ranges R73 reserves. -/
def IsReserved (op : Byte) : Prop :=
  (0x03 ≤ op.toNat ∧ op.toNat ≤ 0x0F) ∨ (0x13 ≤ op.toNat ∧ op.toNat ≤ 0x1F) ∨
    (0x25 ≤ op.toNat ∧ op.toNat ≤ 0x2F) ∨ (0x34 ≤ op.toNat ∧ op.toNat ≤ 0x3F) ∨
    (0x45 ≤ op.toNat ∧ op.toNat ≤ 0x4F) ∨ (0x53 ≤ op.toNat ∧ op.toNat ≤ 0x5F) ∨
    (0x68 ≤ op.toNat ∧ op.toNat ≤ 0x6F) ∨ 0x70 ≤ op.toNat

theorem rowOf_eq_none_iff (op : Byte) : rowOf op = none ↔ op ∉ opMap.map OpRow.op := by
  simp [rowOf, List.find?_eq_none]

/-- The 31 selectors of the operation map (R72), in order. -/
theorem opMap_selectors : opMap.map OpRow.op =
    [0x00, 0x01, 0x02, 0x10, 0x11, 0x12, 0x20, 0x21, 0x22, 0x23, 0x24, 0x30, 0x31, 0x32, 0x33, 0x40, 0x41, 0x42, 0x43,
      0x44, 0x50, 0x51, 0x52, 0x60, 0x61, 0x62, 0x63, 0x64, 0x65, 0x66, 0x67] := rfl

/-- The eight ranges are the complement of the operation map. -/
theorem not_mem_selectors_iff_isReserved (op : Byte) : op ∉ opMap.map OpRow.op ↔ IsReserved op := by
  have := op.isLt
  rw [opMap_selectors]
  simp only [List.mem_cons, List.not_mem_nil, or_false, ← BitVec.toNat_inj, BitVec.reduceToNat, IsReserved]
  omega

theorem decode_eq_reservedSelector_iff (r : Request) :
    decode r = .error .reservedSelector ↔ rowOf r.op = none := by
  rw [decode]
  cases rowOf r.op with
  | none => simp
  | some row =>
    cases hread : row.read r.operands with
    | none => simp [hread]
    | some i => by_cases hi : wellFormed i = true <;> simp [hread, hi]

namespace Machine

theorem step_of_reservedSelector {s : State} {r : Request} {rest : List Request} (h : s.requests = r :: rest)
    (hd : decode r = .error .reservedSelector) : step s = illegalOp { s with requests := rest } := by
  rw [step, takeRequest_cons h]
  simp only [hd]

/-- Settles O4: the operation map has no row for a selector exactly in the eight ranges, and the step on a request
without a row raises `ILLEGAL_OP`. -/
theorem reservedSelectorsAreRefused : Obligations.ReservedSelectorsAreRefused := by
  intro s r rest h
  refine ⟨?_, step_of_reservedSelector h⟩
  calc IsReserved r.op
    _ ↔ r.op ∉ opMap.map OpRow.op := (not_mem_selectors_iff_isReserved r.op).symm
    _ ↔ rowOf r.op = none := (rowOf_eq_none_iff r.op).symm
    _ ↔ decode r = .error .reservedSelector := (decode_eq_reservedSelector_iff r).symm

end Machine

end Sys2Proof
end

section
/-! SUPPORT. The pseudo-operations (30_encoding.md R76): what the checksum shorthands reply, and the two ways a `CHECK`
can go on from the answer of `VERIFY`. -/

namespace Sys2Proof.Machine

open Sys2Proof

/-- `CRC16 S` leaves its result in `CRC` too, as its three operations do. -/
theorem pseudoCrc16_eq (S : Bytes) (s : State) :
    pseudoCrc16 S s = reply (.crcValue (crc16 S)) { s with crc := some (crc16 S) } := rfl

/-- `LRC8 S` leaves the sum of the bytes in `SUM`, as its three operations do. -/
theorem pseudoLrc8_eq (S : Bytes) (s : State) :
    pseudoLrc8 S s = reply (.lrcValue (lrc8 S)) { s with sum := some (lrcFold 0 S) } := rfl

theorem ifOk_of_ok {next : State → Out} {t : State} {a : Answer} (h : t.answer = some a) (ha : a.status = .ok) :
    ifOk next t = next t := by
  obtain ⟨st, r⟩ := a
  subst ha
  rw [ifOk, h]

theorem ifOk_of_ne_ok {next : State → Out} {t : State} {a : Answer} (h : t.answer = some a) (ha : a.status ≠ .ok) :
    ifOk next t = .next t := by
  unfold ifOk
  split
  next r hr =>
    cases h.symm.trans hr
    exact absurd rfl ha
  next => rfl

/-- The operation completes with an answer for the host (R70). -/
def Answers (o : Out) : Prop := ∃ t a, o = .next t ∧ t.answer = some a

namespace Answers

theorem reply {r : Results} {s : State} : Answers (reply r s) := ⟨_, _, rfl, rfl⟩

theorem raise {st : Status} {s : State} : Answers (raise st s) := ⟨_, _, rfl, rfl⟩

theorem ite {p : Prop} [Decidable p] {o o' : Out} (h : Answers o) (h' : Answers o') :
    Answers (if p then o else o') := by
  by_cases hp : p
  · rwa [if_pos hp]
  · rwa [if_neg hp]

end Answers

theorem execRtuVerify_answers (req resp : Bytes) (s : State) : Answers (execRtuVerify req resp s) :=
  .ite .raise (.ite .raise (.ite .raise (.ite .raise .reply)))

theorem execAsciiVerify_answers (req resp : Bytes) (s : State) : Answers (execAsciiVerify req resp s) :=
  .ite .raise (.ite .raise (.ite .raise (.ite .raise (.ite .raise (.ite .raise (.ite .raise .reply))))))

theorem SameAnswer.completes {o o' : Out} (h : SameAnswer o o') : ∃ u, o = .next u := by
  obtain ⟨u, -, hu, -⟩ := h
  exact ⟨u, hu⟩

/-- R76's "status of the first that is not OK, else" the second's answer, for any two operations in a row. -/
theorem andThen_ifOk_answer {first : Out} {second : State → Out} (hfirst : Answers first)
    (hsecond : ∀ t, ∃ u, second t = .next u) :
    ∃ t u v a, first = .next t ∧ second t = .next u ∧ t.answer = some a ∧ andThen first (ifOk second) = .next v ∧
      (a.status ≠ .ok → v.answer = some a) ∧ (a.status = .ok → v.answer = u.answer) := by
  obtain ⟨t, a, rfl, ha⟩ := hfirst
  obtain ⟨u, hu⟩ := hsecond t
  rw [andThen_next]
  by_cases hok : a.status = .ok
  · exact ⟨t, u, u, a, rfl, hu, ha, (ifOk_of_ok ha hok).trans hu, fun hne => absurd hok hne, fun _ => rfl⟩
  · exact ⟨t, u, t, a, rfl, hu, ha, ifOk_of_ne_ok ha hok, fun _ => ha, fun h => absurd h hok⟩

/-- Settles O49: the checksum shorthands reply the pure functions, and a `CHECK` is two operations in a row, the first of
which always answers and the second of which always completes. -/
theorem pseudoOperationsExpand : Obligations.PseudoOperationsExpand := by
  intro s
  refine ⟨fun S => ⟨_, pseudoCrc16_eq S s, rfl⟩, fun S => ⟨_, pseudoLrc8_eq S s, rfl⟩, fun req resp => ?_,
    fun req resp => ?_⟩
  · exact andThen_ifOk_answer (execRtuVerify_answers req resp s)
      fun t => (execRtuDecode_sameAnswer t t resp).completes
  · exact andThen_ifOk_answer (execAsciiVerify_answers req resp s)
      fun t => (asciiDecodeWith_sameAnswer t t _ resp).completes

end Sys2Proof.Machine
end

section
/-! SUPPORT. The CRC unit (40_checksum.md R110 to R112): the round, the byte step and the fold of R111 on words are
those on integers; and its operations by whether `CRC` has a value. -/

namespace Sys2Proof.Machine

open Sys2Proof

/-! ## The fold on integers -/

theorem natCrcRound_of_even {n : Nat} (h : n % 2 = 0) : natCrcRound n = n / 2 :=
  if_neg (by omega)

theorem natCrcRound_of_odd {n : Nat} (h : n % 2 = 1) : natCrcRound n = (n / 2) ^^^ 0xA001 := if_pos h

/-- Bit 0 of a word is the parity of the integer. -/
theorem getLsbD_zero_eq (c : Word16) : c.getLsbD 0 = decide (c.toNat % 2 = 1) := Nat.testBit_zero _

/-- One round: the bit shifted out decides the branch on words and on integers alike. -/
theorem toNat_crcBit (c : Word16) : (crcBit c).toNat = natCrcRound c.toNat := by
  obtain heven | hodd := Nat.mod_two_eq_zero_or_one c.toNat
  · have hbit : c.getLsbD 0 = false := by rw [getLsbD_zero_eq, heven]; rfl
    rw [crcBit_of_even hbit, natCrcRound_of_even heven, BitVec.toNat_ushiftRight, Nat.shiftRight_one]
  · have hbit : c.getLsbD 0 = true := by rw [getLsbD_zero_eq, hodd]; rfl
    rw [crcBit_of_odd hbit, natCrcRound_of_odd hodd, BitVec.toNat_xor, BitVec.toNat_ushiftRight, Nat.shiftRight_one]
    rfl

theorem toNat_crcBit_iterate (n : Nat) (c : Word16) : (crcBit^[n] c).toNat = natCrcRound^[n] c.toNat :=
  Function.Semiconj.iterate_right (f := BitVec.toNat) toNat_crcBit n c

/-- "The byte enters bits 7..0": it is not cut off, so XORing it in is the XOR of the integers. -/
theorem toNat_xor_setWidth (c : Word16) (b : Byte) : (c ^^^ b.setWidth 16).toNat = c.toNat ^^^ b.toNat := by
  rw [BitVec.toNat_xor, BitVec.toNat_setWidth_of_le (by decide)]

theorem toNat_crcStep (c : Word16) (b : Byte) :
    (crcStep c b).toNat = natCrcRound^[8] (c.toNat ^^^ b.toNat) := by
  rw [crcStep, toNat_crcBit_iterate, toNat_xor_setWidth]

theorem natCrc_cons (n : Nat) (b : Byte) (S : Bytes) :
    natCrc n (b :: S) = natCrc (natCrcRound^[8] (n ^^^ b.toNat)) S := rfl

/-- The accumulator after a string, as an integer, is the fold on integers (R111). -/
theorem toNat_crcFold (c : Word16) (S : Bytes) : (crcFold c S).toNat = natCrc c.toNat S := by
  induction S generalizing c with
  | nil => rfl
  | cons b S ih => rw [crcFold_cons, ih, toNat_crcStep, natCrc_cons]

/-- R113: `crc16` on integers, for the frames that carry it (R152, R154). -/
theorem toNat_crc16 (S : Bytes) : (crc16 S).toNat = natCrc 0xFFFF S := toNat_crcFold crcInit S

/-! ## The operations -/

theorem exec_crcNew (s : State) : exec .crcNew s = reply .none { s with crc := some crcInit } := rfl

theorem exec_crcPush (S : Bytes) (s : State) :
    exec (.crcPush S) s = need s.crc s fun c => reply .none { s with crc := some (crcFold c S) } := rfl

theorem exec_crcValue (s : State) : exec .crcValue s = need s.crc s fun c => reply (.crcValue c) s := rfl

theorem exec_crcPush_of_none {s : State} (h : s.crc = none) (S : Bytes) :
    exec (.crcPush S) s = raise .uninit s := by
  rw [exec_crcPush, h, need_none]

theorem exec_crcPush_of_some {s : State} {c : Word16} (h : s.crc = some c) (S : Bytes) :
    exec (.crcPush S) s = reply .none { s with crc := some (crcFold c S) } := by
  rw [exec_crcPush, h, need_some]

theorem exec_crcValue_of_none {s : State} (h : s.crc = none) : exec .crcValue s = raise .uninit s := by
  rw [exec_crcValue, h, need_none]

theorem exec_crcValue_of_some {s : State} {c : Word16} (h : s.crc = some c) :
    exec .crcValue s = reply (.crcValue c) s := by
  rw [exec_crcValue, h, need_some]

/-- Settles O21: each operation by whether `CRC` has a value, and the pushed value is the fold on integers. -/
theorem crcOperationsFollowTheirRules : Obligations.CrcOperationsFollowTheirRules := fun s =>
  ⟨exec_crcNew s, exec_crcPush_of_none, exec_crcValue_of_none,
    fun c S h => ⟨crcFold c S, toNat_crcFold c S, exec_crcPush_of_some h S⟩,
    fun _ => exec_crcValue_of_some⟩

end Sys2Proof.Machine
end

section
/-! SUPPORT. The MBAP framer and the three `SETSLAVE` operations (41_mbap_framer.md R131 to R139, R151, R171): each
operation by its branches, and what a frame's header bytes are as integers (30_encoding.md R81, R82). -/

namespace Sys2Proof.Machine

open Sys2Proof

/-! ## `SETSLAVE` of each framer -/

theorem exec_mbapSetSlave (id : Byte) (s : State) :
    exec (.mbapSetSlave id) s = reply .none { s with slaveM := some id } := rfl

theorem exec_rtuSetSlave (id : Byte) (s : State) :
    exec (.rtuSetSlave id) s = reply .none { s with slaveR := some id } := rfl

theorem exec_asciiSetSlave (id : Byte) (s : State) :
    exec (.asciiSetSlave id) s = reply .none { s with slaveA := some id } := rfl

/-- Settles O27: each of the three replies with its own register written. -/
theorem setSlaveWritesItsRegister : Obligations.SetSlaveWritesItsRegister := fun id s =>
  ⟨exec_mbapSetSlave id s, exec_rtuSetSlave id s, exec_asciiSetSlave id s⟩

/-! ## The fields of a frame -/

/-- Two 16-bit values in wire order are equal when their bytes are. -/
theorem u16be_inj {h l h' l' : Byte} : u16be h l = u16be h' l' ↔ h = h' ∧ l = l' := by
  refine ⟨fun heq => ?_, fun ⟨hh, hl⟩ => by rw [hh, hl]⟩
  have hnat := congrArg BitVec.toNat heq
  rw [toNat_u16be, toNat_u16be] at hnat
  exact ⟨by bv_omega, by bv_omega⟩

theorem toNat_mbapLength_cons (a0 a1 a2 a3 a4 a5 : Byte) (S : Bytes) :
    (mbapLength (a0 :: a1 :: a2 :: a3 :: a4 :: a5 :: S)).toNat = a4.toNat * 256 + a5.toNat := toNat_u16be a4 a5

/-- The frame R132 builds, byte by byte, while its length field does not wrap. -/
theorem mbapFrame_map_toNat (tx : Word16) (unit fc : Byte) {data : Bytes} (h : 2 + data.length < 2 ^ 16) :
    (mbapFrame tx unit fc data).map BitVec.toNat =
      [tx.toNat / 256, tx.toNat % 256, 0, 0, (2 + data.length) / 256, (2 + data.length) % 256, unit.toNat, fc.toNat] ++
        data.map BitVec.toNat := by
  have hlen : (BitVec.ofNat 16 (2 + data.length)).toNat = 2 + data.length :=
    (BitVec.toNat_ofNat ..).trans (Nat.mod_eq_of_lt h)
  simp only [mbapFrame, List.map_append, List.map_cons, List.map_nil, toNat_hi8, toNat_lo8, hlen]
  rfl

/-! ## `MBAP.ENCODE` -/

section

variable {data : Bytes} {s : State} (fc : Byte)

theorem execMbapEncode_tooLong (h : 252 < data.length) : execMbapEncode fc data s = raise .pduTooLong s := if_pos h

theorem execMbapEncode_uninit (h : data.length ≤ 252) (hm : s.slaveM = none) :
    execMbapEncode fc data s = raise .uninit s := by
  rw [execMbapEncode, if_neg (not_lt.2 h), hm, need_none]

theorem execMbapEncode_ok (h : data.length ≤ 252) {unit : Byte} (hm : s.slaveM = some unit) :
    execMbapEncode fc data s =
      reply (.mbapAdu (mbapFrame ((s.txc + 1).extractLsb' 0 16) unit fc data) ((s.txc + 1).extractLsb' 0 16))
        { s with txc := s.txc + 1 } := by
  rw [execMbapEncode, if_neg (not_lt.2 h), hm, need_some]

end

/-- Settles O28: one branch of the operation a clause; in the last, the counter, the transaction ID and the frame are
read as integers. -/
theorem mbapEncodeBuildsTheFrame : Obligations.MbapEncodeBuildsTheFrame := fun fc data s =>
  ⟨execMbapEncode_tooLong fc, execMbapEncode_uninit fc, fun h unit hm =>
    ⟨s.txc + 1, (s.txc + 1).extractLsb' 0 16, mbapFrame ((s.txc + 1).extractLsb' 0 16) unit fc data,
      BitVec.toNat_add s.txc 1, BitVec.extractLsb'_toNat .., mbapFrame_map_toNat _ unit fc (by omega),
      execMbapEncode_ok fc h hm⟩⟩

/-! ## `MBAP.DECODE` -/

section

variable {adu : Bytes} (s : State)

theorem execMbapDecode_tooLong (h : 260 < adu.length) : execMbapDecode adu s = raise .operandTooLong s := if_pos h

theorem execMbapDecode_tooShort (h : adu.length < 8) : execMbapDecode adu s = raise .frameTooShort s := by
  have hmax : adu.length ≤ 260 := by omega
  rw [execMbapDecode, if_neg (not_lt.2 hmax), if_pos h]

/-- The comparison of R135, without its subtractions. -/
theorem execMbapDecode_mismatch (hmax : adu.length ≤ 260) (hmin : 8 ≤ adu.length)
    (h : (mbapLength adu).toNat + 6 ≠ adu.length) : execMbapDecode adu s = raise .lengthMismatch s := by
  rw [execMbapDecode, if_neg (not_lt.2 hmax), if_neg (not_lt.2 hmin), if_pos (by omega)]

theorem execMbapDecode_ok (hmax : adu.length ≤ 260) (hmin : 8 ≤ adu.length)
    (h : (mbapLength adu).toNat + 6 = adu.length) :
    execMbapDecode adu s = reply (.pdu (byteAt adu 7) (slice adu 8 (adu.length - 1))) s := by
  rw [execMbapDecode, if_neg (not_lt.2 hmax), if_neg (not_lt.2 hmin), if_neg (by omega)]

end

/-- The bytes after the 8-byte head of a frame, as `MBAP.DECODE` takes them out. -/
theorem slice_after_head {head data : Bytes} (h : head.length = 8) :
    slice (head ++ data) 8 ((head ++ data).length - 1) = data := by
  have hmid := slice_middle head data [] ((head ++ data).length - 1) (by rw [List.length_append]; omega)
  rwa [List.append_nil, h] at hmid

/-- Settles O30: the sizes leave a head of 8 bytes and the data, and the length field decides between the PDU and the
refusal. -/
theorem mbapDecodeChecksTheLength : Obligations.MbapDecodeChecksTheLength := by
  refine ⟨fun adu s => ⟨execMbapDecode_tooLong s, execMbapDecode_tooShort s⟩, ?_⟩
  intro a0 a1 a2 a3 a4 a5 a6 fc data s hdata
  have hlen : ([a0, a1, a2, a3, a4, a5, a6, fc] ++ data).length = 8 + data.length := List.length_append
  have hfield : (mbapLength ([a0, a1, a2, a3, a4, a5, a6, fc] ++ data)).toNat = a4.toNat * 256 + a5.toNat :=
    toNat_mbapLength_cons ..
  have hmax : ([a0, a1, a2, a3, a4, a5, a6, fc] ++ data).length ≤ 260 := by omega
  have hmin : 8 ≤ ([a0, a1, a2, a3, a4, a5, a6, fc] ++ data).length := by omega
  constructor
  · intro h
    have hok := execMbapDecode_ok s hmax hmin (by omega)
    rwa [slice_after_head rfl] at hok
  · intro h
    exact execMbapDecode_mismatch s hmax hmin (by omega)

/-! ## `MBAP.VERIFY` -/

section

variable {req resp : Bytes} (s : State)

theorem execMbapVerify_tooLong (h : 260 < req.length ∨ 260 < resp.length) :
    execMbapVerify req resp s = raise .operandTooLong s := if_pos h

theorem execMbapVerify_badRequest (hq : req.length ≤ 260) (hp : resp.length ≤ 260) (h : req.length < 7) :
    execMbapVerify req resp s = raise .badOperand s := by
  rw [execMbapVerify, if_neg (not_or_intro (not_lt.2 hq) (not_lt.2 hp)), if_pos h]

theorem execMbapVerify_tooShort (hq : req.length ≤ 260) (h : resp.length < 7) (h7 : 7 ≤ req.length) :
    execMbapVerify req resp s = raise .frameTooShort s := by
  have hp : resp.length ≤ 260 := by omega
  rw [execMbapVerify, if_neg (not_or_intro (not_lt.2 hq) (not_lt.2 hp)), if_neg (not_lt.2 h7), if_pos h]

/-- With the size tests passed, the identities of R137 are compared in order. -/
theorem execMbapVerify_sized (hq : req.length ≤ 260) (hp : resp.length ≤ 260) (hq7 : 7 ≤ req.length)
    (hp7 : 7 ≤ resp.length) :
    execMbapVerify req resp s =
      if mbapTxId resp ≠ mbapTxId req then raise (.txidMismatch (mbapTxId resp) (mbapTxId req)) s
      else if mbapProtoId resp ≠ mbapProtoId req then raise .protoidMismatch s
      else if mbapUnitId resp ≠ mbapUnitId req then raise .unitidMismatch s
      else reply .none s := by
  rw [execMbapVerify, if_neg (not_or_intro (not_lt.2 hq) (not_lt.2 hp)), if_neg (not_lt.2 hq7), if_neg (not_lt.2 hp7)]

/-- The same on two operands of R137 with the bytes of their headers written out. -/
theorem execMbapVerify_headers {q0 q1 q2 q3 q4 q5 q6 p0 p1 p2 p3 p4 p5 p6 : Byte} {q p : Bytes}
    (hq : q.length ≤ 253) (hp : p.length ≤ 253) :
    execMbapVerify ([q0, q1, q2, q3, q4, q5, q6] ++ q) ([p0, p1, p2, p3, p4, p5, p6] ++ p) s =
      if u16be p0 p1 ≠ u16be q0 q1 then raise (.txidMismatch (u16be p0 p1) (u16be q0 q1)) s
      else if u16be p2 p3 ≠ u16be q2 q3 then raise .protoidMismatch s
      else if p6 ≠ q6 then raise .unitidMismatch s
      else reply .none s := by
  have hreq : ([q0, q1, q2, q3, q4, q5, q6] ++ q).length = 7 + q.length := List.length_append
  have hresp : ([p0, p1, p2, p3, p4, p5, p6] ++ p).length = 7 + p.length := List.length_append
  exact execMbapVerify_sized s (by omega) (by omega) (by omega) (by omega)

end

/-- Settles O31: the size tests in order, then one branch of the comparison a clause. -/
theorem mbapVerifyComparesIdentity : Obligations.MbapVerifyComparesIdentity := by
  refine ⟨fun req resp s =>
    ⟨execMbapVerify_tooLong s, execMbapVerify_badRequest s, execMbapVerify_tooShort s⟩, ?_⟩
  intro q0 q1 q2 q3 q4 q5 q6 p0 p1 p2 p3 p4 p5 p6 q p s hq hp
  have same {h l h' l' : Byte} (hh : h = h') (hl : l = l') : ¬u16be h l ≠ u16be h' l' :=
    not_not_intro (u16be_inj.2 ⟨hh, hl⟩)
  refine ⟨fun htx => ⟨u16be p0 p1, u16be q0 q1, toNat_u16be p0 p1, toNat_u16be q0 q1, ?_⟩,
    fun h0 h1 hproto => ?_, fun h0 h1 h2 h3 hunit => ?_, fun h0 h1 h2 h3 h6 => ?_⟩
  · exact (execMbapVerify_headers s hq hp).trans (if_pos (mt u16be_inj.1 htx))
  · exact (execMbapVerify_headers s hq hp).trans ((if_neg (same h0 h1)).trans (if_pos (mt u16be_inj.1 hproto)))
  · exact (execMbapVerify_headers s hq hp).trans
      ((if_neg (same h0 h1)).trans ((if_neg (same h2 h3)).trans (if_pos hunit)))
  · exact (execMbapVerify_headers s hq hp).trans
      ((if_neg (same h0 h1)).trans ((if_neg (same h2 h3)).trans (if_neg (not_not_intro h6))))

/-! ## `MBAP.HDR` -/

section

variable {hdr : Bytes} (s : State)

theorem execMbapHdr_badOperand (h : hdr.length ≠ 7) : execMbapHdr hdr s = raise .badOperand s := if_pos h

theorem execMbapHdr_headerLength (h7 : hdr.length = 7)
    (h : (mbapLength hdr).toNat = 0 ∨ 254 < (mbapLength hdr).toNat) :
    execMbapHdr hdr s = raise .headerLength s := by
  rw [execMbapHdr, if_neg (not_not_intro h7), if_pos h]

theorem execMbapHdr_ok (h7 : hdr.length = 7) (hmin : 1 ≤ (mbapLength hdr).toNat)
    (hmax : (mbapLength hdr).toNat ≤ 254) :
    execMbapHdr hdr s = reply (.bodyLen ((mbapLength hdr).toNat - 1)) s := by
  rw [execMbapHdr, if_neg (not_not_intro h7), if_neg (not_or_intro (by omega) (not_lt.2 hmax))]

end

/-- Settles O32: the size of the operand, then the length field as an integer, decide the branch. -/
theorem mbapHdrGivesTheBodyLength : Obligations.MbapHdrGivesTheBodyLength := by
  refine ⟨fun hdr s => execMbapHdr_badOperand s, fun a0 a1 a2 a3 a4 a5 a6 s => ?_⟩
  rw [← toNat_mbapLength_cons a0 a1 a2 a3 a4 a5 [a6]]
  exact ⟨execMbapHdr_headerLength s rfl, execMbapHdr_ok s rfl⟩

end Sys2Proof.Machine
end

section
/-! SUPPORT. The RTU framer (42_rtu_framer.md R152 to R156): each operation by its branches, and the parts of a frame
that ends in two CRC bytes (30_encoding.md R83). -/

namespace Sys2Proof.Machine

open Sys2Proof

/-! ## `RTU.ENCODE` -/

section

variable {data : Bytes} {s : State} (fc : Byte)

theorem execRtuEncode_tooLong (h : 252 < data.length) : execRtuEncode fc data s = raise .pduTooLong s := if_pos h

theorem execRtuEncode_uninit (h : data.length ≤ 252) (hr : s.slaveR = none) :
    execRtuEncode fc data s = raise .uninit s := by
  rw [execRtuEncode, if_neg (not_lt.2 h), hr, need_none]

theorem execRtuEncode_ok (h : data.length ≤ 252) {slave : Byte} (hr : s.slaveR = some slave) :
    execRtuEncode fc data s = reply (.adu (rtuFrame slave fc data)) s := by
  rw [execRtuEncode, if_neg (not_lt.2 h), hr, need_some]

end

/-- The low byte of a string's CRC, on integers. -/
theorem toNat_lo8_crc16 (S : Bytes) : (lo8 (crc16 S)).toNat = natCrc 0xFFFF S % 256 := by
  rw [toNat_lo8, toNat_crc16]

/-- The high byte of a string's CRC, on integers. -/
theorem toNat_hi8_crc16 (S : Bytes) : (hi8 (crc16 S)).toNat = natCrc 0xFFFF S / 256 := by
  rw [toNat_hi8, toNat_crc16]

/-- Settles O35: one branch of the operation a clause; the frame's last two bytes are those of the CRC, as integers. -/
theorem rtuEncodeBuildsTheFrame : Obligations.RtuEncodeBuildsTheFrame := fun fc data _ =>
  ⟨execRtuEncode_tooLong fc, execRtuEncode_uninit fc, fun h slave hr =>
    ⟨lo8 (crc16 (slave :: fc :: data)), hi8 (crc16 (slave :: fc :: data)), toNat_lo8_crc16 _, toNat_hi8_crc16 _,
      execRtuEncode_ok fc h hr⟩⟩

/-! ## `RTU.DECODE` -/

/-- The CRC field of a frame is its last two bytes, whatever stands before them. -/
theorem rtuCrcField_append (body : Bytes) (l h : Byte) : rtuCrcField (body ++ [l, h]) = u16le l h := by
  have hlen : (body ++ [l, h]).length = body.length + 2 := List.length_append
  have hlow : byteAt (body ++ [l, h]) (body.length + 0) = l := byteAt_append_right body [l, h] 0
  have hhigh : byteAt (body ++ [l, h]) (body.length + 1) = h := byteAt_append_right body [l, h] 1
  rw [rtuCrcField, hlen]
  exact congrArg₂ u16le hlow hhigh

/-- The two bytes of a CRC field hold a string's CRC when they do as an integer. -/
theorem u16le_eq_crc16_iff (l h : Byte) (S : Bytes) :
    u16le l h = crc16 S ↔ l.toNat + h.toNat * 256 = natCrc 0xFFFF S := by
  rw [← BitVec.toNat_inj, toNat_u16le, toNat_crc16]

section

variable {adu : Bytes} (s : State)

theorem execRtuDecode_tooLong (h : 256 < adu.length) : execRtuDecode adu s = raise .operandTooLong s := if_pos h

theorem execRtuDecode_tooShort (h : adu.length < 4) : execRtuDecode adu s = raise .frameTooShort s := by
  have hmax : adu.length ≤ 256 := by omega
  rw [execRtuDecode, if_neg (not_lt.2 hmax), if_pos h]

/-- With the size tests passed, the CRC decides (R154). -/
theorem execRtuDecode_sized (hmax : adu.length ≤ 256) (hmin : 4 ≤ adu.length) :
    execRtuDecode adu s =
      if rtuCrcField adu ≠ crc16 (slice adu 0 (adu.length - 3)) then raise .checksumMismatch s
      else reply (.pdu (byteAt adu 1) (slice adu 2 (adu.length - 3))) s := by
  rw [execRtuDecode, if_neg (not_lt.2 hmax), if_neg (not_lt.2 hmin)]

/-- The same on a frame of R83 with its parts written out: any frame of 4 to 256 bytes is one. -/
theorem execRtuDecode_frame (slave fc l h : Byte) {data : Bytes} (hdata : data.length ≤ 252) :
    execRtuDecode ([slave, fc] ++ data ++ [l, h]) s =
      if u16le l h ≠ crc16 (slave :: fc :: data) then raise .checksumMismatch s else reply (.pdu fc data) s := by
  have hlen : ([slave, fc] ++ data ++ [l, h]).length = data.length + 4 := by simp
  have hbody : slice ([slave, fc] ++ data ++ [l, h]) 0 (data.length + 4 - 3) = slave :: fc :: data :=
    slice_middle [] (slave :: fc :: data) [l, h] _ (by simp)
  have hpayload : slice ([slave, fc] ++ data ++ [l, h]) 2 (data.length + 4 - 3) = data :=
    slice_middle [slave, fc] data [l, h] _ (by simp; omega)
  rw [execRtuDecode_sized s (by omega) (by omega), hlen, rtuCrcField_append, hbody, hpayload]
  rfl

end

/-- Settles O37: the sizes leave a frame of R83, and its CRC field, read as an integer, decides between the PDU and the
refusal. -/
theorem rtuDecodeChecksTheCrc : Obligations.RtuDecodeChecksTheCrc := by
  refine ⟨fun adu s => ⟨execRtuDecode_tooLong s, execRtuDecode_tooShort s⟩, ?_⟩
  intro slave fc l h data s hdata
  have hframe := execRtuDecode_frame s slave fc l h hdata
  have hcrc := u16le_eq_crc16_iff l h (slave :: fc :: data)
  exact ⟨fun heq => hframe.trans (if_neg (not_not_intro (hcrc.2 heq))),
    fun hne => hframe.trans (if_pos (mt hcrc.1 hne))⟩

/-! ## `RTU.VERIFY` -/

section

variable {req resp : Bytes} (s : State)

theorem execRtuVerify_tooLong (h : 256 < req.length ∨ 256 < resp.length) :
    execRtuVerify req resp s = raise .operandTooLong s := if_pos h

theorem execRtuVerify_emptyRequest (hp : resp.length ≤ 256) (h : req = []) :
    execRtuVerify req resp s = raise .badOperand s := by
  have hlen : req.length = 0 := List.length_eq_zero_iff.2 h
  have hq : req.length ≤ 256 := by omega
  rw [execRtuVerify, if_neg (not_or_intro (not_lt.2 hq) (not_lt.2 hp)), if_pos (by omega)]

theorem execRtuVerify_tooShort (hq : req.length ≤ 256) (hne : req ≠ []) (h : resp.length < 4) :
    execRtuVerify req resp s = raise .frameTooShort s := by
  have hp : resp.length ≤ 256 := by omega
  have hpos : 1 ≤ req.length := List.length_pos_of_ne_nil hne
  rw [execRtuVerify, if_neg (not_or_intro (not_lt.2 hq) (not_lt.2 hp)), if_neg (not_lt.2 hpos), if_pos h]

/-- With the size tests passed, the first bytes are compared and nothing else (R156). -/
theorem execRtuVerify_sized (hq : req.length ≤ 256) (hp : resp.length ≤ 256) (hq1 : 1 ≤ req.length)
    (hp4 : 4 ≤ resp.length) :
    execRtuVerify req resp s =
      if byteAt resp 0 ≠ byteAt req 0 then raise .slaveidMismatch s else reply .none s := by
  rw [execRtuVerify, if_neg (not_or_intro (not_lt.2 hq) (not_lt.2 hp)), if_neg (not_lt.2 hq1), if_neg (not_lt.2 hp4)]

/-- The same on two operands with their first bytes written out. -/
theorem execRtuVerify_cons {q0 p0 : Byte} {q p : Bytes} (hq : q.length ≤ 255) (hmin : 3 ≤ p.length)
    (hp : p.length ≤ 255) :
    execRtuVerify (q0 :: q) (p0 :: p) s = if p0 ≠ q0 then raise .slaveidMismatch s else reply .none s :=
  execRtuVerify_sized s (Nat.succ_le_succ hq) (Nat.succ_le_succ hp) (Nat.le_add_left 1 _) (Nat.succ_le_succ hmin)

end

/-- Settles O38: the size tests in order, then the branch of the one comparison that is left. -/
theorem rtuVerifyComparesTheSlave : Obligations.RtuVerifyComparesTheSlave := by
  refine ⟨fun req resp s =>
    ⟨execRtuVerify_tooLong s, execRtuVerify_emptyRequest s, execRtuVerify_tooShort s⟩, ?_⟩
  intro q0 p0 q p s hq hmin hp
  exact ⟨fun hne => (execRtuVerify_cons s hq hmin hp).trans (if_pos hne),
    fun heq => (execRtuVerify_cons s hq hmin hp).trans (if_neg (not_not_intro heq))⟩

end Sys2Proof.Machine
end

section
/-! SUPPORT. The ASCII framer (43_ascii_framer.md R172 to R181): the characters and the LRC of an encoded frame as its
rules state them, the checks of `ASCII.VERIFY` in order, and where `ASCII.SCAN` finds the first CR LF. -/

namespace Sys2Proof.Machine

open Sys2Proof

/-! ## The characters of a frame, and its LRC on integers -/

/-- The character of a nibble is its entry in the table of upper-case digits (R95). -/
theorem hexchar_eq_getD (n : BitVec 4) : hexchar n = hexDigits.getD n.toNat 0 := by
  revert n
  decide

theorem toNat_highNibble (b : Byte) : (b.extractLsb' 4 4).toNat = b.toNat / 16 := by
  have := b.isLt
  rw [BitVec.extractLsb'_toNat, Nat.shiftRight_eq_div_pow]
  omega

theorem toNat_lowNibble (b : Byte) : (b.extractLsb' 0 4).toNat = b.toNat % 16 := BitVec.extractLsb'_toNat ..

theorem hex2_eq_getD (b : Byte) :
    hex2 b = [hexDigits.getD (b.toNat / 16) 0, hexDigits.getD (b.toNat % 16) 0] := by
  rw [hex2, hexchar_eq_getD, hexchar_eq_getD, toNat_highNibble, toNat_lowNibble]

/-- The characters of a byte string are those of the table of upper-case digits. -/
theorem hexstr_eq_hexOf (S : Bytes) : hexstr S = hexOf S := congrArg (S.flatMap ·) (funext hex2_eq_getD)

theorem byteSum_cons (b : Byte) (S : Bytes) : byteSum (b :: S) = b.toNat + byteSum S := List.sum_cons

/-- R119 on integers: the running sum is the integer sum modulo 256. -/
theorem toNat_lrcFold (v : Byte) (S : Bytes) : (lrcFold v S).toNat = (v.toNat + byteSum S) % 256 := by
  induction S generalizing v with
  | nil => exact (Nat.mod_eq_of_lt v.isLt).symm
  | cons b S ih =>
    rw [lrcFold_cons, ih, BitVec.toNat_add, byteSum_cons]
    omega

/-- R120 on integers, for the frames that carry it. -/
theorem toNat_lrc8 (S : Bytes) : (lrc8 S).toNat = (256 - byteSum S % 256) % 256 := by
  have hsum : (lrcFold 0 S).toNat = byteSum S % 256 := by simp [toNat_lrcFold]
  rw [lrc8, lrcNeg, hsum, BitVec.toNat_ofNat, Nat.mod_mod]

/-! ## `ASCII.ENCODE` -/

/-- The body and the LRC go through one hexadecimal region. -/
theorem asciiFrame_eq_hexOf (slave fc : Byte) (data : Bytes) :
    asciiFrame slave fc data =
      [0x3A] ++ hexOf ([slave, fc] ++ data ++ [lrc8 ([slave, fc] ++ data)]) ++ [0x0D, 0x0A] := by
  have hlrc : hex2 (lrc8 ([slave, fc] ++ data)) = hexstr [lrc8 ([slave, fc] ++ data)] := rfl
  rw [asciiFrame, hlrc, ← hexstr_eq_hexOf, hexstr_append _ [_], ← List.append_assoc]

section

variable {data : Bytes} {s : State} (fc : Byte)

theorem execAsciiEncode_tooLong (h : 252 < data.length) : execAsciiEncode fc data s = raise .pduTooLong s := if_pos h

theorem execAsciiEncode_uninit (h : data.length ≤ 252) (ha : s.slaveA = none) :
    execAsciiEncode fc data s = raise .uninit s := by
  rw [execAsciiEncode, if_neg (not_lt.2 h), ha, need_none]

theorem execAsciiEncode_ok (h : data.length ≤ 252) {slave : Byte} (ha : s.slaveA = some slave) :
    execAsciiEncode fc data s = reply (.adu (asciiFrame slave fc data)) s := by
  rw [execAsciiEncode, if_neg (not_lt.2 h), ha, need_some]

end

/-- Settles O40: one branch of the operation a clause; the frame's last digits are those of the LRC of its body, as an
integer. -/
theorem asciiEncodeBuildsTheFrame : Obligations.AsciiEncodeBuildsTheFrame := by
  refine fun fc data s => ⟨execAsciiEncode_tooLong fc, execAsciiEncode_uninit fc, fun h slave ha =>
    ⟨lrc8 (slave :: fc :: data), toNat_lrc8 _, ?_⟩⟩
  have hok := execAsciiEncode_ok fc h ha
  rwa [asciiFrame_eq_hexOf] at hok

/-! ## `ASCII.VERIFY` -/

section

variable {req resp : Bytes} (s : State)

theorem execAsciiVerify_tooLong (h : 513 < req.length ∨ 513 < resp.length) :
    execAsciiVerify req resp s = raise .operandTooLong s := if_pos h

theorem execAsciiVerify_badRequest (h : req.length < 3) (hp : resp.length ≤ 513) :
    execAsciiVerify req resp s = raise .badOperand s := by
  have hq : req.length ≤ 513 := by omega
  rw [execAsciiVerify, if_neg (not_or_intro (not_lt.2 hq) (not_lt.2 hp)), if_pos h]

theorem execAsciiVerify_tooShort (hq3 : 3 ≤ req.length) (hq : req.length ≤ 513) (h : resp.length < 9) :
    execAsciiVerify req resp s = raise .frameTooShort s := by
  have hp : resp.length ≤ 513 := by omega
  rw [execAsciiVerify, if_neg (not_or_intro (not_lt.2 hq) (not_lt.2 hp)), if_neg (not_lt.2 hq3), if_pos h]

/-- With the size tests passed, the boundaries and the slave echo are checked in the order of R178. -/
theorem execAsciiVerify_sized (hq3 : 3 ≤ req.length) (hq : req.length ≤ 513) (hp9 : 9 ≤ resp.length)
    (hp : resp.length ≤ 513) :
    execAsciiVerify req resp s =
      if (resp.length - 1) % 2 ≠ 0 then raise .asciiBoundary s
      else if byteAt resp 0 ≠ charColon ∧ byteAt resp 0 ≠ charGt then raise .asciiBoundary s
      else if byteAt resp (resp.length - 2) ≠ charCr ∨ byteAt resp (resp.length - 1) ≠ charLf then
        raise .asciiBoundary s
      else if byteAt resp 1 ≠ byteAt req 1 ∨ byteAt resp 2 ≠ byteAt req 2 then raise .slaveidMismatch s
      else reply .none s := by
  rw [execAsciiVerify, if_neg (not_or_intro (not_lt.2 hq) (not_lt.2 hp)), if_neg (not_lt.2 hq3), if_neg (not_lt.2 hp9)]

theorem execAsciiVerify_oddRegion (hq3 : 3 ≤ req.length) (hq : req.length ≤ 513) (hp9 : 9 ≤ resp.length)
    (hp : resp.length ≤ 513) (h : (resp.length - 1) % 2 = 1) :
    execAsciiVerify req resp s = raise .asciiBoundary s := by
  rw [execAsciiVerify_sized s hq3 hq hp9 hp, if_pos (by omega)]

/-- The same on operands with the characters R178 examines written out, and an even number of others in between. -/
theorem execAsciiVerify_boundaries (q0 q1 q2 p0 p1 p2 cr lf : Byte) {q body : Bytes} (hq : q.length ≤ 510)
    (hmin : 4 ≤ body.length) (hmax : body.length ≤ 508) (heven : body.length % 2 = 0) :
    execAsciiVerify ([q0, q1, q2] ++ q) ([p0, p1, p2] ++ body ++ [cr, lf]) s =
      if p0 ≠ 0x3A ∧ p0 ≠ 0x3E then raise .asciiBoundary s
      else if cr ≠ 0x0D ∨ lf ≠ 0x0A then raise .asciiBoundary s
      else if p1 ≠ q1 ∨ p2 ≠ q2 then raise .slaveidMismatch s
      else reply .none s := by
  have hreq : ([q0, q1, q2] ++ q).length = 3 + q.length := List.length_append
  have hhead : ([p0, p1, p2] ++ body).length = 3 + body.length := List.length_append
  have hresp : ([p0, p1, p2] ++ body ++ [cr, lf]).length = 3 + body.length + 2 := by rw [List.length_append, hhead]; rfl
  have hcr : byteAt ([p0, p1, p2] ++ body ++ [cr, lf]) (3 + body.length + 2 - 2) = cr := by
    rw [← hhead]; exact byteAt_append_right _ [cr, lf] 0
  have hlf : byteAt ([p0, p1, p2] ++ body ++ [cr, lf]) (3 + body.length + 2 - 1) = lf := by
    rw [← hhead]; exact byteAt_append_right _ [cr, lf] 1
  rw [execAsciiVerify_sized s (by omega) (by omega) (by omega) (by omega), hresp, if_neg (by omega), hcr, hlf]
  rfl

end

/-- Settles O45: the size tests in order, then one branch of the boundary checks and the slave echo a clause. -/
theorem asciiVerifyChecksTheBoundaries : Obligations.AsciiVerifyChecksTheBoundaries := by
  refine ⟨fun req resp s => ⟨execAsciiVerify_tooLong s, execAsciiVerify_badRequest s, execAsciiVerify_tooShort s,
    execAsciiVerify_oddRegion s⟩, ?_⟩
  intro q0 q1 q2 p0 p1 p2 cr lf q body s hq hmin hmax heven
  have hsplit := execAsciiVerify_boundaries s q0 q1 q2 p0 p1 p2 cr lf hq hmin hmax heven
  have started (h : p0 = 0x3A ∨ p0 = 0x3E) : ¬(p0 ≠ 0x3A ∧ p0 ≠ 0x3E) := by rwa [← not_or, not_not]
  have same {a b a' b' : Byte} (ha : a = a') (hb : b = b') : ¬(a ≠ a' ∨ b ≠ b') :=
    not_or_intro (not_not_intro ha) (not_not_intro hb)
  refine ⟨fun hcolon hgt => ?_, fun hstart htail => ?_, fun hstart hcr hlf hecho => ?_,
    fun hstart hcr hlf h1 h2 => ?_⟩
  · exact hsplit.trans (if_pos ⟨hcolon, hgt⟩)
  · exact hsplit.trans ((if_neg (started hstart)).trans (if_pos (not_and_or.1 htail)))
  · exact hsplit.trans ((if_neg (started hstart)).trans ((if_neg (same hcr hlf)).trans
      (if_pos (not_and_or.1 hecho))))
  · exact hsplit.trans ((if_neg (started hstart)).trans ((if_neg (same hcr hlf)).trans (if_neg (same h1 h2))))

/-! ## `ASCII.SCAN` -/

theorem not_crlfAt_zero (S : Bytes) : ¬CrlfAt S 0 := fun ⟨hpos, _⟩ => Nat.not_succ_le_zero 0 hpos

theorem crlfAt_one_cons_cons {a b : Byte} {S : Bytes} : CrlfAt (a :: b :: S) 1 ↔ a = charCr ∧ b = charLf := by
  simp [CrlfAt]

theorem crlfAt_cons_succ_succ {a : Byte} {S : Bytes} {k : Nat} : CrlfAt (a :: S) (k + 2) ↔ CrlfAt S (k + 1) := by
  simp [CrlfAt]

/-- A CR LF needs two characters. -/
theorem not_crlfAt_of_length_le_one {S : Bytes} (h : S.length ≤ 1) (k : Nat) : ¬CrlfAt S k := by
  rintro ⟨hpos, -, hlf⟩
  obtain ⟨hlt, -⟩ := List.getElem?_eq_some_iff.1 hlf
  omega

theorem crlfAt_take_iff {S : Bytes} {n k : Nat} : CrlfAt (S.take n) k ↔ k < n ∧ CrlfAt S k := by
  by_cases hk : k < n
  · have hcr : k - 1 < n := by omega
    simp only [CrlfAt, List.getElem?_take, hk, hcr, if_true, true_and]
  · simp [CrlfAt, List.getElem?_take, hk]

theorem crlfEnd_cons_cons (a b : Byte) (S : Bytes) :
    crlfEnd (a :: b :: S) = if a = charCr ∧ b = charLf then some 2 else (crlfEnd (b :: S)).map (· + 1) := rfl

/-- The loop of R181 stops at the first CR LF, its LF included in the count. -/
theorem crlfEnd_of_first {S : Bytes} {k : Nat} (h : CrlfAt S k) (hfirst : ∀ j, j < k → ¬CrlfAt S j) :
    crlfEnd S = some (k + 1) := by
  induction S generalizing k with
  | nil => exact absurd h (not_crlfAt_of_length_le_one (by simp) k)
  | cons a S ih =>
    match S, k with
    | [], k => exact absurd h (not_crlfAt_of_length_le_one (by simp) k)
    | b :: S, 0 => exact absurd h (not_crlfAt_zero _)
    | b :: S, 1 => rw [crlfEnd_cons_cons, if_pos (crlfAt_one_cons_cons.1 h)]
    | b :: S, k + 2 =>
      have hhead : ¬(a = charCr ∧ b = charLf) := fun hc => hfirst 1 (by omega) (crlfAt_one_cons_cons.2 hc)
      have hrest (j : Nat) (hj : j < k + 1) : ¬CrlfAt (b :: S) j :=
        match j with
        | 0 => not_crlfAt_zero _
        | j + 1 => fun hc => hfirst (j + 2) (by omega) (crlfAt_cons_succ_succ.2 hc)
      rw [crlfEnd_cons_cons, if_neg hhead, ih (crlfAt_cons_succ_succ.1 h) hrest]
      rfl

theorem crlfEnd_of_never {S : Bytes} (h : ∀ k, ¬CrlfAt S k) : crlfEnd S = none := by
  induction S with
  | nil => rfl
  | cons a S ih =>
    match S with
    | [] => rfl
    | b :: S =>
      have hrest (k : Nat) : ¬CrlfAt (b :: S) k :=
        match k with
        | 0 => not_crlfAt_zero _
        | k + 1 => fun hc => h (k + 2) (crlfAt_cons_succ_succ.2 hc)
      rw [crlfEnd_cons_cons, if_neg fun hc => h 1 (crlfAt_one_cons_cons.2 hc), ih hrest]
      rfl

section

variable {stream : Bytes} (s : State)

theorem execAsciiScan_crlf {n : Nat} (h : crlfEnd (stream.take 513) = some n) :
    execAsciiScan stream s = reply (.scanned (stream.take n) .crlf) s := by
  rw [execAsciiScan, h]

theorem execAsciiScan_maxSize (h : crlfEnd (stream.take 513) = none) (hlen : 513 ≤ stream.length) :
    execAsciiScan stream s = reply (.scanned (stream.take 513) .maxSize) s := by
  rw [execAsciiScan, h]
  exact if_pos hlen

theorem execAsciiScan_streamEnd (h : crlfEnd (stream.take 513) = none) (hlen : stream.length < 513) :
    execAsciiScan stream s = reply (.scanned stream .streamEnd) s := by
  rw [execAsciiScan, h]
  exact if_neg (not_le.2 hlen)

end

/-- Settles O46: the first CR LF among the first 513 characters is that of the window the operation searches, and the
length of the stream decides when there is none. -/
theorem asciiScanFindsTheFrameEnd : Obligations.AsciiScanFindsTheFrameEnd := by
  intro stream s
  have found {k : Nat} (hk : k < 513) (h : CrlfAt stream k) (hfirst : ∀ j, j < k → ¬CrlfAt stream j) :
      crlfEnd (stream.take 513) = some (k + 1) :=
    crlfEnd_of_first (crlfAt_take_iff.2 ⟨hk, h⟩) fun j hj hc => hfirst j hj (crlfAt_take_iff.1 hc).2
  have absent (h : ∀ k, k < 513 → ¬CrlfAt stream k) : crlfEnd (stream.take 513) = none :=
    crlfEnd_of_never fun k hc => h k (crlfAt_take_iff.1 hc).1 (crlfAt_take_iff.1 hc).2
  exact ⟨fun k _ hk h hfirst => execAsciiScan_crlf s (found hk h hfirst),
    fun h hlen => execAsciiScan_maxSize s (absent h) hlen,
    fun h hlen => execAsciiScan_streamEnd s (absent h) hlen⟩

end Sys2Proof.Machine
end

section
/-! SUPPORT. The RTU parser's rows (44_rtu_parser.md R191 to R202, the table of R205): the layout of each function code
(30_encoding.md R90), and what each parser state does with a byte that arrives in time. -/

namespace Sys2Proof.Machine

open Sys2Proof

theorem PState.working_eq_false_iff (p : PState) : p.working = false ↔ p = .idle ∨ p = .done ∨ p = .failed := by
  cases p <;> simp [PState.working]

/-! ## The layouts -/

theorem not_mem_readFamily_of_mem_writeFamily : ∀ fc ∈ writeFamily, fc ∉ readFamily := by decide

theorem layoutOf_readFamily {fc : Byte} (h : fc ∈ readFamily) : layoutOf fc = some .counted := if_pos h

theorem layoutOf_writeFamily {fc : Byte} (h : fc ∈ writeFamily) : layoutOf fc = some (.fixed 4) :=
  (if_neg (not_mem_readFamily_of_mem_writeFamily fc h)).trans (if_pos h)

theorem layoutOf_maskWrite : layoutOf 0x16 = some (.fixed 6) := by decide

theorem layoutOf_unlisted {fc : Byte} (hr : fc ∉ readFamily) (hw : fc ∉ writeFamily) (hm : fc ≠ 0x16) :
    layoutOf fc = none :=
  (if_neg hr).trans ((if_neg hw).trans (if_neg hm))

/-! ## One byte in each state -/

section

variable {b : Byte} {s : State}

theorem inSlaveId_own (h : b = s.pslave) :
    inSlaveId b s = reply .parsing { s with pbuf := [b], pst := .functionCode } := by
  rw [inSlaveId, if_pos h, replyParse_parsing (by simp)]

theorem inSlaveId_other (hp : s.pst = .slaveId) (h : b ≠ s.pslave) : inSlaveId b s = reply .parsing s := by
  rw [inSlaveId, if_neg h, replyParse_parsing (by simp [hp])]

theorem inFunctionCode_counted (h : b = s.pfc) (hl : layoutOf s.pfc = some .counted) :
    inFunctionCode b s = reply .parsing { s with pbuf := s.pbuf ++ [b], pst := .readLength } := by
  rw [inFunctionCode, if_pos h, hl]
  exact replyParse_parsing (by simp)

theorem inFunctionCode_fixed (h : b = s.pfc) {n : Nat} (hl : layoutOf s.pfc = some (.fixed n)) :
    inFunctionCode b s = reply .parsing { s with pbuf := s.pbuf ++ [b], prem := n, pst := .readPayload } := by
  rw [inFunctionCode, if_pos h, hl]
  exact replyParse_parsing (by simp)

theorem inFunctionCode_unsupported (h : b = s.pfc) (hl : layoutOf s.pfc = none) :
    inFunctionCode b s = failParser .unsupportedFc s := by
  rw [inFunctionCode, if_pos h, hl]

theorem inFunctionCode_exception (hne : b ≠ s.pfc) (h : b = s.pfc ||| 0x80) :
    inFunctionCode b s = reply .parsing { s with pbuf := s.pbuf ++ [b], prem := 1, pst := .readPayload } := by
  rw [inFunctionCode, if_neg hne, if_pos h, replyParse_parsing (by simp)]

theorem inFunctionCode_unexpected (hne : b ≠ s.pfc) (h : b ≠ s.pfc ||| 0x80) :
    inFunctionCode b s = failParser .unexpectedFc s := by
  rw [inFunctionCode, if_neg hne, if_neg h]

theorem inReadLength_count (hmin : 1 ≤ b.toNat) (hmax : b.toNat ≤ 251) :
    inReadLength b s = reply .parsing { s with pbuf := s.pbuf ++ [b], prem := b.toNat, pst := .readPayload } := by
  rw [inReadLength, if_pos ⟨hmin, hmax⟩, replyParse_parsing (by simp)]

theorem inReadLength_invalid (h : b.toNat = 0 ∨ 252 ≤ b.toNat) : inReadLength b s = failParser .invalidLength s :=
  if_neg (show ¬(1 ≤ b.toNat ∧ b.toNat ≤ 251) by omega)

theorem inReadPayload_more (hp : s.pst = .readPayload) (h : 1 < s.prem) :
    inReadPayload b s = reply .parsing { s with pbuf := s.pbuf ++ [b], prem := s.prem - 1 } := by
  rw [inReadPayload, if_neg (by omega), replyParse_parsing (by simp [hp])]

theorem inReadPayload_last (h : s.prem = 1) :
    inReadPayload b s = reply .parsing { s with pbuf := s.pbuf ++ [b], prem := 2, pst := .crc } := by
  rw [inReadPayload, if_pos (by omega), replyParse_parsing (by simp)]

theorem inCrc_first (hp : s.pst = .crc) (h : s.prem = 2) :
    inCrc b s = reply .parsing { s with pbuf := s.pbuf ++ [b], prem := 1 } := by
  rw [inCrc, if_neg (by omega), replyParse_parsing (by simp [hp]), h]

theorem inCrc_last (h : s.prem = 1) :
    inCrc b s =
      reply (.parsed (s.pbuf ++ [b])) { s with pbuf := s.pbuf ++ [b], prem := 0, pst := .done } := by
  rw [inCrc, if_pos (by omega), replyParse_done rfl]

end

/-! ## The operations -/

theorem exec_rtupStart (slave fc : Byte) (deadline : Time) (s : State) :
    exec (.rtupStart slave fc deadline) s =
      reply .none { s with pslave := slave, pfc := fc, pdl := deadline, pbuf := [], prem := 0, pst := .slaveId } := rfl

theorem exec_rtupByte (b : Byte) (now : Time) (s : State) : exec (.rtupByte b now) s = execRtupByte b now s := rfl

/-- Settles O51: the three branches of `RTUP.TICK`; the time remaining is the deadline less the time given. -/
theorem rtupTickTestsTheDeadline : Obligations.RtupTickTestsTheDeadline := fun t s =>
  ⟨fun hp => execRtupTick_inactive t ((PState.working_eq_false_iff _).2 hp), execRtupTick_late,
    fun hw hl => ⟨s.pdl - t, sub_nonneg.2 hl, sub_add_cancel s.pdl t, execRtupTick_inTime hw hl⟩⟩

/-- Settles O50: a row of the table a clause, each the rule of its parser state.  R38 is needed in `SLAVE_ID` alone, as
there the identifier replaces the buffer and the table appends it: the buffer is empty. -/
theorem parserFollowsTheTransitionTable : Obligations.ParserFollowsTheTransitionTable := by
  refine ⟨exec_rtupStart, fun b now s hlegal => ⟨fun hp => ?inactive, fun hw hl => ?late, fun hl => ?inTime⟩⟩
  case inactive =>
    have hw := (PState.working_eq_false_iff s.pst).2 hp
    exact ⟨execRtupByte_inactive b now hw, execRtupTick_inactive now hw⟩
  case late => exact ⟨execRtupByte_late b hw hl, execRtupTick_late hw hl⟩
  case inTime =>
    obtain ⟨-, hempty, -⟩ := hlegal
    simp only [exec_rtupByte]
    refine ⟨fun hp hb => ?own, fun hp hb => ?other, fun hp hb hr => ?read, fun hp hb hw => ?write,
      fun hp hb hm => ?mask, fun hp hb hr hw hm => ?unsupported, fun hp hne hb => ?exception,
      fun hp hne hb => ?unexpected, fun hp hmin hmax => ?count, fun hp hb => ?invalid, fun hp hr => ?more,
      fun hp hr => ?last, fun hp hr => ?crcFirst, fun hp hr => ?crcLast⟩
    case own => rw [execRtupByte_slaveId b hp hl, inSlaveId_own hb, hempty hp]; rfl
    case other => exact (execRtupByte_slaveId b hp hl).trans (inSlaveId_other hp hb)
    case read =>
      exact (execRtupByte_functionCode b hp hl).trans (inFunctionCode_counted hb (layoutOf_readFamily hr))
    case write =>
      exact (execRtupByte_functionCode b hp hl).trans (inFunctionCode_fixed hb (layoutOf_writeFamily hw))
    case mask =>
      have hlayout : layoutOf s.pfc = some (.fixed 6) := by rw [hm]; exact layoutOf_maskWrite
      exact (execRtupByte_functionCode b hp hl).trans (inFunctionCode_fixed hb hlayout)
    case unsupported =>
      exact (execRtupByte_functionCode b hp hl).trans (inFunctionCode_unsupported hb (layoutOf_unlisted hr hw hm))
    case exception => exact (execRtupByte_functionCode b hp hl).trans (inFunctionCode_exception hne hb)
    case unexpected => exact (execRtupByte_functionCode b hp hl).trans (inFunctionCode_unexpected hne hb)
    case count => exact (execRtupByte_readLength b hp hl).trans (inReadLength_count hmin hmax)
    case invalid => exact (execRtupByte_readLength b hp hl).trans (inReadLength_invalid hb)
    case more => exact (execRtupByte_readPayload b hp hl).trans (inReadPayload_more hp hr)
    case last => exact (execRtupByte_readPayload b hp hl).trans (inReadPayload_last hr)
    case crcFirst => exact (execRtupByte_crc b hp hl).trans (inCrc_first hp hr)
    case crcLast => exact (execRtupByte_crc b hp hl).trans (inCrc_last hr)

end Sys2Proof.Machine
end

section
/-! SUPPORT. The timing unit (45_timing.md R221 to R231): the durations are the only ones that meet `IsCharTime` and
`IsT35`, and each operation by whether `BAUD` and `LAST_ACT` have a value. -/

namespace Sys2Proof.Machine

open Sys2Proof

/-! ## The durations -/

/-- R222: at a positive rate `charUs` is the one character duration. -/
theorem isCharTime_iff {B : Nat} {d : Time} (h : 1 ≤ B) : IsCharTime B d ↔ d = charUs B :=
  (eq_div_iff (baud_pos h).ne').symm

/-- The formula of R223, rounded up, is at most `j` microseconds exactly when `j` is not below it. -/
theorem natCeil_t35_le_iff {B j : Nat} (h : 1 ≤ B) : ⌈35000000 / (B : Rat)⌉₊ ≤ j ↔ 35000000 ≤ j * B := by
  rw [Nat.ceil_le, div_le_iff₀ (baud_pos h)]
  norm_cast

/-- The ceiling of R223 is a natural number. -/
theorem t35Us_eq_natCeil {B : Nat} (h : B ≤ baudKnee) : t35Us B = (⌈35000000 / (B : Rat)⌉₊ : Rat) := by
  rw [t35Us_upto h, natCast_ceil_eq_intCast_ceil (by positivity)]

/-- R223: at a positive rate `t35Us` meets the statement's words for T3.5. -/
theorem isT35_t35Us {B : Nat} (h : 1 ≤ B) : IsT35 B (t35Us B) :=
  ⟨fun hknee => ⟨⌈35000000 / (B : Rat)⌉₊, t35Us_eq_natCeil hknee, (natCeil_t35_le_iff h).1 le_rfl,
    fun _ => (natCeil_t35_le_iff h).2⟩, t35Us_above⟩

/-- T3.5 is unique: of two least numbers neither is below the other, and above the knee both are 1750. -/
theorem IsT35.unique {B : Nat} {d d' : Time} (h : IsT35 B d) (h' : IsT35 B d') : d = d' := by
  obtain ⟨hupto, habove⟩ := h
  obtain ⟨hupto', habove'⟩ := h'
  obtain hknee | hknee := le_or_gt B 19200
  · obtain ⟨k, rfl, hk, hleast⟩ := hupto hknee
    obtain ⟨k', rfl, hk', hleast'⟩ := hupto' hknee
    rw [le_antisymm (hleast k' hk') (hleast' k hk)]
  · rw [habove hknee, habove' hknee]

/-- R223: at a positive rate `t35Us` is the one T3.5. -/
theorem isT35_iff {B : Nat} {q : Time} (h : 1 ≤ B) : IsT35 B q ↔ q = t35Us B :=
  ⟨fun hq => hq.unique (isT35_t35Us h), fun hq => hq ▸ isT35_t35Us h⟩

/-- T1.5 is below T3.5 at every positive rate: times the rate it is 16.5·10⁶, and T3.5 times the rate is at least
35·10⁶ up to the knee and 1750 times more than 19200 above it (R223, R224). -/
theorem t15Us_lt_t35Us {B : Nat} (h : 1 ≤ B) : t15Us B < t35Us B := by
  have h15 : t15Us B * B = 16500000 := by
    rw [t15Us, mul_assoc, charUs_mul h]
    norm_num
  have h35 : 16500000 < t35Us B * B := by
    obtain hknee | hknee := le_or_gt B baudKnee
    · exact lt_of_lt_of_le (by norm_num) (le_t35Us_mul h hknee)
    · have hB : (19200 : Rat) < B := by exact_mod_cast hknee
      rw [t35Us_above hknee]
      linarith
  exact lt_of_mul_lt_mul_right (h15.trans_lt h35) (baud_pos h).le

/-! ## `TIM.SETBAUD` and `TIM.MARK` -/

section

variable {n : Nat} {t last : Time} {s : State}

theorem exec_timSetBaud_zero (s : State) : exec (.timSetBaud 0) s = raise .badOperand s := rfl

theorem exec_timSetBaud_pos (h : 0 < n) (s : State) :
    exec (.timSetBaud n) s = reply .none { s with baud := some n } := if_neg h.ne'

theorem exec_timMark (t : Time) (s : State) : exec (.timMark t) s = execTimMark t s := rfl

theorem exec_timMark_early (hs : s.lastAct = some last) (h : t < last) :
    exec (.timMark t) s = raise .badOperand s := by
  simp only [exec_timMark, execTimMark, hs, if_pos h]

theorem exec_timMark_accepted (h : ∀ last, s.lastAct = some last → last ≤ t) :
    exec (.timMark t) s = reply .none { s with lastAct := some t } := by
  cases hs : s.lastAct with
  | none => simp only [exec_timMark, execTimMark, hs]
  | some last => simp only [exec_timMark, execTimMark, hs, if_neg (h last hs).not_gt]

end

/-- Settles O54: the rate is zero or positive, and the time is earlier than the recorded one or not. -/
theorem timSetBaudAndMark : Obligations.TimSetBaudAndMark := fun _ _ s =>
  ⟨exec_timSetBaud_zero s, fun h => exec_timSetBaud_pos h s, fun _ => exec_timMark_early, exec_timMark_accepted⟩

/-! ## The operations that need the baud rate, without one (R13) -/

theorem exec_timPresend (t : Time) (s : State) : exec (.timPresend t) s = execTimPresend t s := rfl

theorem exec_timGap (t : Time) (s : State) : exec (.timGap t) s = execTimGap t s := rfl

section

variable {s : State} (h : s.baud = none)
include h

/-- Every operation that needs the baud rate ends at `UNINIT` while there is none. -/
theorem need_baud_uninit (use : Nat → Out) : need s.baud s use = raise .uninit s := by
  rw [h, need_none]

theorem exec_timChar_uninit : exec .timChar s = raise .uninit s := need_baud_uninit h _
theorem exec_timT35_uninit : exec .timT35 s = raise .uninit s := need_baud_uninit h _
theorem exec_timPresend_uninit (t : Time) : exec (.timPresend t) s = raise .uninit s := need_baud_uninit h _
theorem exec_timPostsend_uninit (n : Nat) : exec (.timPostsend n) s = raise .uninit s := need_baud_uninit h _
theorem exec_timRxtime_uninit (n : Nat) : exec (.timRxtime n) s = raise .uninit s := need_baud_uninit h _
theorem exec_timGap_uninit (t : Time) : exec (.timGap t) s = raise .uninit s := need_baud_uninit h _

end

/-! ## The operations that need the baud rate, with one -/

section

variable {s : State} {B : Nat} (h : s.baud = some B)
include h

/-- An operation that needs the baud rate uses the one that is set. -/
theorem need_baud_set (use : Nat → Out) : need s.baud s use = use B := by
  rw [h, need_some]

theorem exec_timChar_set : exec .timChar s = reply (.duration (charUs B)) s := need_baud_set h _

theorem exec_timT35_set : exec .timT35 s = reply (.duration (t35Us B)) s := need_baud_set h _

theorem exec_timPostsend_set (n : Nat) :
    exec (.timPostsend n) s = reply (.duration (n * charUs B + t35Us B)) s := need_baud_set h _

theorem exec_timRxtime_set (n : Nat) :
    exec (.timRxtime n) s = reply (.duration (n * charUs B * 5 / 2)) s := need_baud_set h _

theorem exec_timPresend_noActivity (t : Time) (ha : s.lastAct = none) :
    exec (.timPresend t) s = reply (.duration 0) s := by
  rw [exec_timPresend, execTimPresend, need_baud_set h, ha]

/-- R228: the two branches of the operation are the time left until `ready`, cut at zero. -/
theorem exec_timPresend_activity (t : Time) {last : Time} (ha : s.lastAct = some last) :
    exec (.timPresend t) s = reply (.duration (max 0 (last + 2 * t35Us B - t))) s := by
  rw [exec_timPresend, execTimPresend, need_baud_set h, ha]
  obtain hready | hready := le_or_gt (last + 2 * t35Us B) t
  · rw [max_eq_left (sub_nonpos.2 hready)]
    exact if_pos hready
  · rw [max_eq_right (sub_pos.2 hready).le]
    exact if_neg hready.not_ge

theorem exec_timGap_inFrame {t : Time} (ht : t ≤ t15Us B) :
    exec (.timGap t) s = reply (.gap .inFrame) s := by
  rw [exec_timGap, execTimGap, need_baud_set h, if_pos ht]

theorem exec_timGap_gapViolation {t : Time} (h15 : t15Us B < t) (h35 : t < t35Us B) :
    exec (.timGap t) s = reply (.gap .gapViolation) s := by
  rw [exec_timGap, execTimGap, need_baud_set h, if_neg h15.not_ge, if_pos h35]

/-- R231 tests T1.5 first: a silence of T3.5 passes that test because T1.5 is below T3.5. -/
theorem exec_timGap_frameGap (hB : 1 ≤ B) {t : Time} (ht : t35Us B ≤ t) :
    exec (.timGap t) s = reply (.gap .frameGap) s := by
  have h15 : t15Us B < t := (t15Us_lt_t35Us hB).trans_le ht
  rw [exec_timGap, execTimGap, need_baud_set h, if_neg h15.not_ge, if_neg ht.not_gt]

end

/-! ## The statements -/

/-- Settles O55: the model's two durations are the character duration and T3.5 in the statement's words. -/
theorem timCharAndT35 : Obligations.TimCharAndT35 := fun _ =>
  ⟨fun h => ⟨exec_timChar_uninit h, exec_timT35_uninit h⟩,
    fun B h hB => ⟨⟨charUs B, charUs_mul hB, exec_timChar_set h⟩, ⟨t35Us B, isT35_t35Us hB, exec_timT35_set h⟩⟩⟩

/-- Settles O56: T3.5 is the model's, and the wait is the difference cut at zero. -/
theorem timPresendGivesTheSilence : Obligations.TimPresendGivesTheSilence := by
  refine fun t s => ⟨fun h => exec_timPresend_uninit h t, fun B h ha => exec_timPresend_noActivity h t ha,
    fun B last q h hB ha hq => ?_⟩
  rw [(isT35_iff hB).1 hq]
  exact exec_timPresend_activity h t ha

/-- Settles O57: the character duration and T3.5 are the model's, of which the operations answer the same sums. -/
theorem timPostsendAndRxtime : Obligations.TimPostsendAndRxtime := by
  refine fun n s => ⟨fun h => ⟨exec_timPostsend_uninit h n, exec_timRxtime_uninit h n⟩,
    fun B d q h hB hd hq => ?_⟩
  rw [(isCharTime_iff hB).1 hd, (isT35_iff hB).1 hq]
  exact ⟨exec_timPostsend_set h n, exec_timRxtime_set h n⟩

/-- Settles O58: the silence is up to T1.5, between, or from T3.5 on, and each is one branch of the operation. -/
theorem timGapClassifiesTheSilence : Obligations.TimGapClassifiesTheSilence := by
  refine fun t s => ⟨fun h => exec_timGap_uninit h t, fun B d q h hB hd hq => ?_⟩
  rw [(isCharTime_iff hB).1 hd, (isT35_iff hB).1 hq]
  exact ⟨exec_timGap_inFrame h, exec_timGap_gapViolation h, exec_timGap_frameGap h hB⟩

end Sys2Proof.Machine
end

section
/-! SUPPORT. The three ways an operation ends (60_exceptions.md R255, R265): a reply, a raise in the state it began in, or
a failed parse. One rule per branch of a definition, so that the proof for an operation follows its definition. -/

namespace Sys2Proof.Machine

open Sys2Proof

/-- The ways an operation that began in `s` ends. A reply may leave any state; the other two leave `s`, a failed parse with
`PST` at `FAILED`. -/
inductive Ends (s : State) : Out → Prop
  | reply (r : Results) (u : State) : Ends s (reply r u)
  | raise {st : Status} (h : st.failsParser = false) : Ends s (raise st s)
  | failParser {st : Status} (h : st.failsParser = true) : Ends s (failParser st s)

namespace Ends

variable {s : State}

theorem ite {p : Prop} [Decidable p] {o o' : Out} (h : Ends s o) (h' : Ends s o') :
    Ends s (if p then o else o') := by
  by_cases hp : p
  · rwa [if_pos hp]
  · rwa [if_neg hp]

theorem need {α : Type} {e : Option α} {use : α → Out} (hu : ∀ v, Ends s (use v)) : Ends s (need e s use) := by
  cases e with
  | none => exact .raise rfl
  | some v => exact hu v

theorem replyParse {u : State} : Ends s (replyParse u) := .ite (.reply ..) (.reply ..)

end Ends

/-! ## The framers and the timing unit: each check raises in the state the operation began in -/

section

variable (s : State)

theorem execMbapVerify_ends (req resp : Bytes) : Ends s (execMbapVerify req resp s) :=
  .ite (.raise rfl) (.ite (.raise rfl) (.ite (.raise rfl) (.ite (.raise rfl) (.ite (.raise rfl)
    (.ite (.raise rfl) (.reply ..))))))

theorem execAsciiVerify_ends (req resp : Bytes) : Ends s (execAsciiVerify req resp s) :=
  .ite (.raise rfl) (.ite (.raise rfl) (.ite (.raise rfl) (.ite (.raise rfl) (.ite (.raise rfl)
    (.ite (.raise rfl) (.ite (.raise rfl) (.reply ..)))))))

theorem asciiDecodeWith_ends (lowerOk : Bool) (adu : Bytes) : Ends s (asciiDecodeWith lowerOk adu s) := by
  refine .ite (.raise rfl) (.ite (.raise rfl) (.ite (.raise rfl) ?_))
  cases unhexPairs lowerOk (slice adu 1 (adu.length - 3)) with
  | none => exact .raise rfl
  | some bin => exact .ite (.raise rfl) (.reply ..)

theorem execAsciiScan_ends (stream : Bytes) : Ends s (execAsciiScan stream s) := by
  unfold execAsciiScan
  cases crlfEnd (stream.take asciiMax) with
  | some n => exact .reply ..
  | none => exact .ite (.reply ..) (.reply ..)

theorem execTimMark_ends (t : Time) : Ends s (execTimMark t s) := by
  unfold execTimMark
  cases s.lastAct with
  | none => exact .reply ..
  | some last => exact .ite (.raise rfl) (.reply ..)

theorem execTimPresend_ends (t : Time) : Ends s (execTimPresend t s) := by
  refine .need fun B => ?_
  cases s.lastAct with
  | none => exact .reply ..
  | some last => exact .ite (.reply ..) (.reply ..)

/-! ## The parser: the one unit with statuses that fail it -/

theorem inFunctionCode_ends (b : Byte) : Ends s (inFunctionCode b s) := by
  refine .ite ?_ (.ite .replyParse (.failParser rfl))
  obtain h | h | h | h := layoutOf_cases s.pfc <;> rw [h]
  · exact .replyParse
  · exact .replyParse
  · exact .replyParse
  · exact .failParser rfl

theorem execRtupByte_ends (b : Byte) (now : Time) : Ends s (execRtupByte b now s) := by
  refine .ite (.ite (.failParser rfl) ?_) (.raise rfl)
  cases s.pst with
  | slaveId => exact .ite .replyParse .replyParse
  | functionCode => exact inFunctionCode_ends s b
  | readLength => exact .ite .replyParse (.failParser rfl)
  | readPayload => exact .ite .replyParse .replyParse
  | crc => exact .ite .replyParse .replyParse
  | idle | done | failed => exact .raise rfl

end

/-- Every operation ends in one of the three ways, from every state. -/
theorem exec_ends (i : Instr) (s : State) : Ends s (exec i s) := by
  cases i with
  | crcNew | lrcNew | mbapSetSlave | rtuSetSlave | asciiSetSlave | rtupStart => exact .reply ..
  | crcPush | crcValue | lrcPush | lrcValue | timChar | timT35 | timPostsend | timRxtime =>
    exact .need fun _ => .reply ..
  | mbapEncode | rtuEncode | asciiEncode => exact .ite (.raise rfl) (.need fun _ => .reply ..)
  | mbapDecode | rtuDecode => exact .ite (.raise rfl) (.ite (.raise rfl) (.ite (.raise rfl) (.reply ..)))
  | mbapHdr => exact .ite (.raise rfl) (.ite (.raise rfl) (.reply ..))
  | mbapVerify req resp => exact execMbapVerify_ends s req resp
  | rtuVerify =>
    exact .ite (.raise rfl) (.ite (.raise rfl) (.ite (.raise rfl) (.ite (.raise rfl) (.reply ..))))
  | asciiDecode adu => exact asciiDecodeWith_ends s _ adu
  | asciiVerify req resp => exact execAsciiVerify_ends s req resp
  | asciiScan stream => exact execAsciiScan_ends s stream
  | rtupByte b now => exact execRtupByte_ends s b now
  | rtupTick => exact .ite (.ite (.failParser rfl) (.reply ..)) (.raise rfl)
  | timSetBaud => exact .ite (.raise rfl) (.reply ..)
  | timMark t => exact execTimMark_ends s t
  | timPresend t => exact execTimPresend_ends s t
  | timGap => exact .need fun _ => .ite (.reply ..) (.ite (.reply ..) (.reply ..))

/-- `failsParser` marks the four parser statuses of R255 and no other. -/
theorem Status.failsParser_iff (st : Status) : st.failsParser = true ↔
    st = .deadlineExceeded ∨ st = .unexpectedFc ∨ st = .unsupportedFc ∨ st = .invalidLength := by
  cases st <;> simp [Status.failsParser]

/-- What an operation's end in a status other than `OK` does to the block, by whether the status fails the parser. -/
theorem Ends.toBlock_of_ne_ok {s t : State} {a : Answer} (h : Ends s (.next t)) (ha : t.answer = some a)
    (hne : a.status ≠ .ok) :
    t.toBlock = if a.status.failsParser then { s.toBlock with pst := .failed } else s.toBlock := by
  generalize ho : (Host.Outcome.next t : Out) = o at h
  cases h with
  | reply r u =>
    obtain rfl := reply_next_iff.1 ho.symm
    cases ha
    exact absurd rfl hne
  | raise h =>
    obtain rfl := raise_next_iff.1 ho.symm
    cases ha
    exact (if_neg (by rw [h]; exact Bool.false_ne_true)).symm
  | failParser h =>
    obtain rfl := failParser_next_iff.1 ho.symm
    cases ha
    exact (if_pos h).symm

/-- Settles O13: an operation ends in a reply, in a raise or in a failed parse, and only the third, which the four parser
statuses mark, touches the block. -/
theorem raisingChangesNothing : Obligations.RaisingChangesNothing := by
  intro i s t a hnext ha hne
  have hends : Ends s (.next t) := hnext ▸ exec_ends i s
  have hblock := hends.toBlock_of_ne_ok ha hne
  refine ⟨fun hst => ?_, fun hd hu hs hl => ?_⟩
  · rwa [if_pos ((Status.failsParser_iff _).2 hst)] at hblock
  · rwa [if_neg (by simp [Status.failsParser_iff, hd, hu, hs, hl])] at hblock

end Sys2Proof.Machine
end

section
/-! SUPPORT. The algebra of the CRC (40_checksum.md R111, R115): the round on bits, from which it is linear and loses
nothing; and the whole fold over two bytes as sixteen rounds. -/

namespace Sys2Proof.Machine

open Sys2Proof

/-! ## The round -/

/-- Bit `i` of a round: the next higher bit, XORed with the polynomial's when the bit shifted out was 1. -/
theorem getLsbD_crcBit (c : Word16) (i : Nat) :
    (crcBit c).getLsbD i = (c.getLsbD (i + 1) ^^ (c.getLsbD 0 && crcPoly.getLsbD i)) := by
  cases h : c.getLsbD 0 with
  | false => simp [crcBit_of_even h, Nat.add_comm]
  | true => simp [crcBit_of_odd h, Nat.add_comm]

theorem crcBit_xor (c d : Word16) : crcBit (c ^^^ d) = crcBit c ^^^ crcBit d := by
  refine BitVec.eq_of_getLsbD_eq fun i _ => ?_
  simp only [getLsbD_crcBit, BitVec.getLsbD_xor]
  cases c.getLsbD 0 <;> cases d.getLsbD 0 <;> simp [Bool.xor_left_comm, Bool.xor_comm]

theorem crcBit_zero : crcBit 0 = 0 := by decide

/-- The polynomial's bit 15 is 1, so bit 15 of a round is the bit that was shifted out. -/
theorem getLsbD_crcBit_top (c : Word16) : (crcBit c).getLsbD 15 = c.getLsbD 0 := by
  have hpoly : crcPoly.getLsbD 15 = true := by decide
  rw [getLsbD_crcBit, hpoly, BitVec.getLsbD_of_ge c 16 le_rfl, Bool.and_true, Bool.false_xor]

/-- A round loses nothing: its bit 15 gives back bit 0, and with it the others give back the rest. -/
theorem crcBit_injective : Function.Injective crcBit := by
  intro c d h
  have hlow : c.getLsbD 0 = d.getLsbD 0 := by rw [← getLsbD_crcBit_top, h, getLsbD_crcBit_top]
  refine BitVec.eq_of_getLsbD_eq fun i _ => ?_
  cases i with
  | zero => exact hlow
  | succ i =>
    have hi := congrArg (·.getLsbD i) h
    simpa only [getLsbD_crcBit, hlow, Bool.xor_left_inj] using hi

theorem crcBit_iterate_xor (n : Nat) (c d : Word16) : crcBit^[n] (c ^^^ d) = crcBit^[n] c ^^^ crcBit^[n] d := by
  induction n generalizing c d with
  | zero => rfl
  | succ n ih => rw [Function.iterate_succ_apply, crcBit_xor, ih]; rfl

theorem crcBit_iterate_zero (n : Nat) : crcBit^[n] 0 = 0 := Function.iterate_fixed crcBit_zero n

/-- Rounds that shift out only zeros are a shift. -/
theorem crcBit_iterate_of_low_zero {n : Nat} {c : Word16} (h : ∀ i < n, c.getLsbD i = false) :
    crcBit^[n] c = c >>> n := by
  induction n generalizing c with
  | zero => simp
  | succ n ih =>
    have hshift : ∀ i < n, (c >>> 1).getLsbD i = false := fun i hi => by
      rw [BitVec.getLsbD_ushiftRight]
      exact h _ (by omega)
    rw [Function.iterate_succ_apply, crcBit_of_even (h 0 n.succ_pos), ih hshift, ← BitVec.shiftRight_add, Nat.add_comm]

/-! ## One byte, and two -/

theorem crcStep_bijective (b : Byte) : Function.Bijective (fun c => crcStep c b) := by
  refine Finite.injective_iff_bijective.1 fun c d h => ?_
  exact BitVec.xor_left_inj _ |>.1 (crcBit_injective.iterate 8 h)

theorem crcFold_injective (S : Bytes) : Function.Injective (fun c => crcFold c S) := by
  induction S with
  | nil => exact fun _ _ h => h
  | cons b S ih => exact fun c d h => (crcStep_bijective b).injective (ih h)

/-- Two bytes enter the accumulator as the 16-bit value they form, low byte first, before sixteen rounds: the second
byte's eight places are shifted down, unchanged, by the first eight rounds. -/
theorem crcFold_pair (c : Word16) (l h : Byte) : crcFold c [l, h] = crcBit^[16] (c ^^^ u16le l h) := by
  have hfield : u16le l h = l.setWidth 16 ^^^ (h.setWidth 16 <<< 8) := by
    refine BitVec.eq_of_getLsbD_eq fun i hi => ?_
    rw [u16le, BitVec.getLsbD_append, BitVec.getLsbD_xor, BitVec.getLsbD_shiftLeft, BitVec.getLsbD_setWidth,
      BitVec.getLsbD_setWidth]
    by_cases h8 : i < 8
    · simp [h8, hi]
    · simp [h8, hi, show i - 8 < 16 by omega, BitVec.getLsbD_of_ge l i (by omega)]
  have hhigh : crcBit^[8] (h.setWidth 16 <<< 8) = h.setWidth 16 := by
    rw [crcBit_iterate_of_low_zero fun i hi => by simp [hi]]
    refine BitVec.eq_of_getLsbD_eq fun i hi => ?_
    rw [BitVec.getLsbD_ushiftRight, BitVec.getLsbD_shiftLeft]
    by_cases h8 : i < 8
    · simp [show 8 + i < 16 by omega]
    · simp [BitVec.getLsbD_of_ge h i (by omega)]
  calc crcFold c [l, h]
    _ = crcBit^[8] (crcBit^[8] (c ^^^ l.setWidth 16) ^^^ h.setWidth 16) := rfl
    _ = crcBit^[8] (crcBit^[8] (c ^^^ l.setWidth 16 ^^^ h.setWidth 16 <<< 8)) := by
      rw [crcBit_iterate_xor 8 (c ^^^ l.setWidth 16), hhigh]
    _ = crcBit^[16] (c ^^^ u16le l h) := by
      rw [← Function.iterate_add_apply, hfield, BitVec.xor_assoc]

/-- A string with two more bytes has CRC zero exactly when they hold the string's CRC, low byte first. -/
theorem crc16_append_pair_eq_zero_iff (S : Bytes) (l h : Byte) :
    crc16 (S ++ [l, h]) = 0 ↔ u16le l h = crc16 S := by
  have hself : (0 : Word16) = crc16 S ^^^ crc16 S := BitVec.xor_self.symm
  rw [crc16_append, crcFold_pair, ← crcBit_iterate_zero 16, (crcBit_injective.iterate 16).eq_iff, hself,
    BitVec.xor_right_inj]

/-- One changed byte gives another accumulator after it, which the bytes that follow keep apart. -/
theorem crc16_ne_of_one_changed (S T : Bytes) {b b' : Byte} (hb : b ≠ b') :
    crc16 (S ++ [b] ++ T) ≠ crc16 (S ++ [b'] ++ T) := by
  rw [crc16_append, crc16_append, crc16_append, crc16_append]
  refine (crcFold_injective T).ne fun h => hb ?_
  have hwide := (BitVec.xor_right_inj _).1 (crcBit_injective.iterate 8 h)
  simpa using congrArg (BitVec.setWidth 8) hwide

/-! ## The statements -/

/-- Two operations in a row, each of which completes. -/
theorem performAll_pair {i j : Instr} {s t u : State} (hi : exec i s = .next t) (hj : exec j t = .next u) :
    performAll [i, j] s = .next u := by
  rw [performAll_cons, hi, andThen_next, performAll_cons, hj]
  rfl

/-- Settles O22: with a value in `CRC` each push folds its string in, and the fold of a concatenation is the two folds. -/
theorem crcPushIsIncremental : Obligations.CrcPushIsIncremental := by
  intro S T s hs
  obtain ⟨c, hc⟩ := Option.ne_none_iff_exists'.1 hs
  rw [exec_crcPush_of_some hc, crcFold_append]
  exact (performAll_pair (exec_crcPush_of_some hc S) (exec_crcPush_of_some rfl T)).symm

/-- Settles O23: the two bytes hold the string's CRC. -/
theorem crcResidueIsZero : Obligations.CrcResidueIsZero := fun S =>
  (crc16_append_pair_eq_zero_iff S _ _).2 (u16le_lo8_hi8 _)

/-- Settles O24: a byte's step is injective on a finite type, one changed byte is not lost, and 00 01 is not 01 00. -/
theorem crcDetectsOneChangedByte : Obligations.CrcDetectsOneChangedByte :=
  ⟨crcStep_bijective, fun S T _ _ => crc16_ne_of_one_changed S T, 0x00, 0x01, by decide +kernel⟩

end Sys2Proof.Machine
end

section
/-! SUPPORT. Encoded RTU frames (42_rtu_framer.md R153, R158): their CRC is zero, and a frame's CRC field is right exactly
when the CRC of all of it is zero. -/

namespace Sys2Proof.Machine

open Sys2Proof

/-- R154's comparison, of the whole frame: its CRC is zero. -/
theorem rtuCrcField_eq_crc16_iff {adu : Bytes} (h : 4 ≤ adu.length) :
    rtuCrcField adu = crc16 (slice adu 0 (adu.length - 3)) ↔ crc16 adu = 0 := by
  obtain ⟨l, h', hend⟩ := List.length_eq_two.1 (show (adu.drop (adu.length - 2)).length = 2 by
    rw [List.length_drop]; omega)
  obtain ⟨body, rfl⟩ : ∃ body, adu = body ++ [l, h'] := ⟨_, hend ▸ (List.take_append_drop _ adu).symm⟩
  have hlen : (body ++ [l, h']).length = body.length + 2 := List.length_append
  have hbody : slice (body ++ [l, h']) 0 ((body ++ [l, h']).length - 3) = body :=
    slice_middle [] body [l, h'] _ (by rw [List.length_nil]; omega)
  rw [rtuCrcField_append, hbody, crc16_append_pair_eq_zero_iff]

theorem execRtuDecode_of_crc_ne_zero {adu : Bytes} (s : State) (hmax : adu.length ≤ 256) (hmin : 4 ≤ adu.length)
    (h : crc16 adu ≠ 0) : execRtuDecode adu s = raise .checksumMismatch s := by
  rw [execRtuDecode_sized s hmax hmin, if_pos (mt (rtuCrcField_eq_crc16_iff hmin).1 h)]

/-! ## The frame R152 builds -/

section

variable (slave fc : Byte) (data : Bytes)

theorem rtuFrame_length : (rtuFrame slave fc data).length = data.length + 4 := by
  simp [rtuFrame]

theorem crc16_rtuFrame : crc16 (rtuFrame slave fc data) = 0 := crcResidueIsZero _

theorem execRtuDecode_rtuFrame {data : Bytes} (h : data.length ≤ 252) (s : State) :
    execRtuDecode (rtuFrame slave fc data) s = reply (.pdu fc data) s :=
  (execRtuDecode_frame s slave fc _ _ h).trans (if_neg (not_not_intro (u16le_lo8_hi8 _)))

theorem execRtuVerify_rtuFrame {data : Bytes} (h : data.length ≤ 252) (s : State) :
    execRtuVerify (rtuFrame slave fc data) (rtuFrame slave fc data) s = reply .none s := by
  have hlen := rtuFrame_length slave fc data
  rw [execRtuVerify_sized s (by omega) (by omega) (by omega) (by omega), if_neg (not_not_intro rfl)]

/-- The changed frame is as long as the encoded one, and its CRC is not zero. -/
theorem execRtuDecode_one_changed {front back : Bytes} {b b' : Byte} {data : Bytes} (h : data.length ≤ 252)
    (hadu : rtuFrame slave fc data = front ++ [b] ++ back) (hb : b' ≠ b) (s : State) :
    execRtuDecode (front ++ [b'] ++ back) s = raise .checksumMismatch s := by
  have hlen : (front ++ [b'] ++ back).length = data.length + 4 := by
    rw [← rtuFrame_length slave fc data, hadu]
    simp
  refine execRtuDecode_of_crc_ne_zero s (by omega) (by omega) ?_
  rw [← crc16_rtuFrame slave fc data, hadu]
  exact crc16_ne_of_one_changed front back hb

end

/-! ## The statements -/

/-- The three encode operations test the data's size, then need the slave identifier: one that ends in `OK` passed
both. -/
theorem encode_next_ok {element : Option Byte} {use : Byte → Out} {data : Bytes} {s t : State} {r : Results}
    (h : (if data.length > pduDataMax then raise .pduTooLong s else need element s use) = .next t)
    (ha : t.answer = some ⟨.ok, r⟩) : data.length ≤ 252 ∧ ∃ slave, element = some slave ∧ use slave = .next t := by
  split_ifs at h with hlen
  · cases raise_next_iff.1 h
    cases ha
  · obtain ⟨-, ho⟩ | ⟨slave, hslave, ho⟩ := need_cases h
    · cases raise_next_iff.1 ho.symm
      cases ha
    · exact ⟨not_lt.1 hlen, slave, hslave, ho.symm⟩

theorem execRtuEncode_adu {fc : Byte} {data adu : Bytes} {s t : State} (h : execRtuEncode fc data s = .next t)
    (ha : t.answer = some ⟨.ok, .adu adu⟩) :
    data.length ≤ 252 ∧ ∃ slave, s.slaveR = some slave ∧ adu = rtuFrame slave fc data := by
  obtain ⟨hlen, slave, hslave, huse⟩ := encode_next_ok h ha
  cases reply_next_iff.1 huse
  cases ha
  exact ⟨hlen, slave, hslave, rfl⟩

/-- Settles O36: the frame is the one R152 builds, whose CRC field is the CRC of what stands before it. -/
theorem rtuEncodedFrameLaws : Obligations.RtuEncodedFrameLaws := by
  intro fc data adu s t h ha
  obtain ⟨-, slave, hr, rfl⟩ := execRtuEncode_adu h ha
  exact ⟨crc16_rtuFrame slave fc data, rtuFrame_length slave fc data, hr.symm, rfl⟩

/-- Settles O39: the CRC field of the encoded frame is right, and one changed byte makes the CRC of the whole frame
nonzero. -/
theorem rtuRoundTripAndErrorDetection : Obligations.RtuRoundTripAndErrorDetection := by
  intro id fc data s hdata
  refine ⟨_, rtuFrame id fc data, performAll_pair (exec_rtuSetSlave id s) (execRtuEncode_ok fc hdata rfl), rfl,
    fun u => ⟨execRtuDecode_rtuFrame id fc hdata u, execRtuVerify_rtuFrame id fc hdata u, ?_⟩⟩
  intro front back b b' hadu hb
  exact execRtuDecode_one_changed id fc hdata hadu hb u

end Sys2Proof.Machine
end

section
/-! SUPPORT. The LRC (40_checksum.md R118 to R123): it depends on the integer sum of the bytes modulo 256 alone, and the
unit's operations by whether `SUM` has a value. -/

namespace Sys2Proof.Machine

open Sys2Proof

/-! ## The sum of a string -/

theorem byteSum_append (S T : Bytes) : byteSum (S ++ T) = byteSum S + byteSum T := by
  simp [byteSum]

theorem byteSum_singleton (b : Byte) : byteSum [b] = b.toNat := by
  simp [byteSum]

theorem byteSum_perm {S T : Bytes} (h : S.Perm T) : byteSum S = byteSum T := (h.map _).sum_eq

theorem lrc8_congr {S T : Bytes} (h : byteSum S % 256 = byteSum T % 256) : lrc8 S = lrc8 T := by
  rw [← BitVec.toNat_inj, toNat_lrc8, toNat_lrc8, h]

/-- A byte is a string's LRC when the two add up to zero modulo 256. -/
theorem lrc8_eq_iff (S : Bytes) (l : Byte) : lrc8 S = l ↔ (byteSum S + l.toNat) % 256 = 0 := by
  have := l.isLt
  rw [← BitVec.toNat_inj, toNat_lrc8]
  omega

theorem byteSum_add_lrc8 (S : Bytes) : (byteSum S + (lrc8 S).toNat) % 256 = 0 := (lrc8_eq_iff S _).1 rfl

theorem byteSum_append_lrc8 (S : Bytes) : byteSum (S ++ [lrc8 S]) % 256 = 0 := by
  rw [byteSum_append, byteSum_singleton, byteSum_add_lrc8]

theorem lrc8_append_lrc8 (S : Bytes) : lrc8 (S ++ [lrc8 S]) = 0 := (lrc8_eq_iff _ 0).2 (byteSum_append_lrc8 S)

/-- Adding to one byte what is taken from another leaves the sum. -/
theorem lrc8_cancelling (A B C : Bytes) (x y d : Byte) :
    lrc8 (A ++ [x + d] ++ B ++ [y - d] ++ C) = lrc8 (A ++ [x] ++ B ++ [y] ++ C) := by
  have := d.isLt
  apply lrc8_congr
  simp only [byteSum_append, byteSum_singleton, BitVec.toNat_add, BitVec.toNat_sub]
  omega

/-! ## The operations -/

theorem exec_lrcNew (s : State) : exec .lrcNew s = reply .none { s with sum := some 0 } := rfl

theorem exec_lrcPush (S : Bytes) (s : State) :
    exec (.lrcPush S) s = need s.sum s fun v => reply .none { s with sum := some (lrcFold v S) } := rfl

theorem exec_lrcValue (s : State) : exec .lrcValue s = need s.sum s fun v => reply (.lrcValue (lrcNeg v)) s := rfl

theorem exec_lrcPush_of_none {s : State} (h : s.sum = none) (S : Bytes) :
    exec (.lrcPush S) s = raise .uninit s := by
  rw [exec_lrcPush, h, need_none]

theorem exec_lrcPush_of_some {s : State} {v : Byte} (h : s.sum = some v) (S : Bytes) :
    exec (.lrcPush S) s = reply .none { s with sum := some (lrcFold v S) } := by
  rw [exec_lrcPush, h, need_some]

theorem exec_lrcValue_of_none {s : State} (h : s.sum = none) : exec .lrcValue s = raise .uninit s := by
  rw [exec_lrcValue, h, need_none]

theorem exec_lrcValue_of_some {s : State} {v : Byte} (h : s.sum = some v) :
    exec .lrcValue s = reply (.lrcValue (lrcNeg v)) s := by
  rw [exec_lrcValue, h, need_some]

/-- Settles O25: each operation by whether `SUM` has a value, with the fold and the negation on integers. -/
theorem lrcOperationsFollowTheirRules : Obligations.LrcOperationsFollowTheirRules := fun s =>
  ⟨exec_lrcNew s, exec_lrcPush_of_none, exec_lrcValue_of_none,
    fun v S h => ⟨lrcFold v S, toNat_lrcFold v S, exec_lrcPush_of_some h S⟩,
    fun v h => ⟨lrcNeg v, (BitVec.toNat_ofNat ..).trans (Nat.mod_mod ..), exec_lrcValue_of_some h⟩⟩

/-- Settles O26: (a) is the fold of a concatenation, and the other laws are those of the sum modulo 256. -/
theorem lrcLaws : Obligations.LrcLaws := by
  refine ⟨fun S T s hs => ?_, fun S => ⟨byteSum_add_lrc8 S, lrc8_append_lrc8 S⟩,
    fun S T h => lrc8_congr (by rw [byteSum_perm h]), lrc8_cancelling⟩
  obtain ⟨v, hv⟩ := Option.ne_none_iff_exists'.1 hs
  rw [exec_lrcPush_of_some hv, lrcFold_append]
  exact (performAll_pair (exec_lrcPush_of_some hv S) (exec_lrcPush_of_some rfl T)).symm

end Sys2Proof.Machine
end

section
/-! SUPPORT. ASCII frames (43_ascii_framer.md R173, R175, R183): the hexadecimal region between the first and the last two
characters, which characters it may hold, and what `ASCII.DECODE` does with it. -/

namespace Sys2Proof.Machine

open Sys2Proof

/-! ## Characters -/

/-- R96: exactly the characters that are no accepted digit have no value. -/
theorem unhex1_eq_none_iff (lowerOk : Bool) (c : Byte) : unhex1 lowerOk c = none ↔ ¬IsHexDigit lowerOk c := by
  simp only [unhex1, IsHexDigit, BitVec.le_def, BitVec.reduceToNat]
  split_ifs <;> simp [*]

/-- D13: a lower-case digit has the value of its upper-case one. -/
theorem unhex1_upperHex (c : Byte) : unhex1 true (upperHex c) = unhex1 true c := by
  revert c
  decide +kernel

theorem unhex2_upperHex (c d : Byte) : unhex2 true (upperHex c) (upperHex d) = unhex2 true c d := by
  simp only [unhex2, unhex1_upperHex]

theorem unhex2_eq_none {lowerOk : Bool} {a b : Byte} (h : unhex1 lowerOk a = none ∨ unhex1 lowerOk b = none) :
    unhex2 lowerOk a b = none := by
  obtain h | h := h <;> simp [unhex2, h]

theorem unhexPairs_cons_cons (lowerOk : Bool) (a b : Byte) (S : Bytes) :
    unhexPairs lowerOk (a :: b :: S) = (unhex2 lowerOk a b).bind fun v => (unhexPairs lowerOk S).map (v :: ·) := by
  rw [unhexPairs]
  cases unhex2 lowerOk a b <;> rfl

/-- A character that is no accepted digit stops the loop of R175, wherever it stands. -/
theorem unhexPairs_eq_none {lowerOk : Bool} {c : Byte} (hc : unhex1 lowerOk c = none) :
    ∀ {S : Bytes}, S.length % 2 = 0 → c ∈ S → unhexPairs lowerOk S = none
  | [], _, hmem => absurd hmem List.not_mem_nil
  | [_], hodd, _ => absurd hodd Nat.one_ne_zero
  | a :: b :: S, heven, hmem => by
    rw [unhexPairs_cons_cons]
    cases hv : unhex2 lowerOk a b with
    | none => rfl
    | some v =>
      have hrest : c ∈ S := by
        obtain rfl | rfl | hrest := by simpa using hmem
        · cases (unhex2_eq_none (.inl hc)).symm.trans hv
        · cases (unhex2_eq_none (.inr hc)).symm.trans hv
        · exact hrest
      have hS : S.length % 2 = 0 := (Nat.add_mod_right S.length 2).symm.trans heven
      simp [unhexPairs_eq_none hc hS hrest]

theorem unhexPairs_map_upperHex : ∀ S : Bytes, unhexPairs true (S.map upperHex) = unhexPairs true S
  | [] => rfl
  | [_] => rfl
  | a :: b :: S => by
    rw [List.map_cons, List.map_cons, unhexPairs_cons_cons, unhexPairs_cons_cons, unhex2_upperHex,
      unhexPairs_map_upperHex S]

theorem unhexPairs_hexOf (lowerOk : Bool) (S : Bytes) : unhexPairs lowerOk (hexOf S) = some S := by
  rw [← hexstr_eq_hexOf, unhexPairs_hexstr]

theorem hexOf_length (S : Bytes) : (hexOf S).length = 2 * S.length := by
  rw [← hexstr_eq_hexOf, hexstr_length]

theorem getD_hexDigits_mem {n : Nat} (h : n < 16) : hexDigits.getD n 0 ∈ hexDigits := by
  rw [List.getD_eq_getElem _ _ h]
  exact List.getElem_mem h

theorem mem_hexDigits_of_mem_hexOf {S : Bytes} {c : Byte} (h : c ∈ hexOf S) : c ∈ hexDigits := by
  obtain ⟨b, -, hc⟩ := List.mem_flatMap.1 h
  have := b.isLt
  obtain rfl | rfl := by simpa using hc
  · exact getD_hexDigits_mem (by omega)
  · exact getD_hexDigits_mem (by omega)

/-! ## The hexadecimal region -/

theorem slice_map (f : Byte → Byte) (S : Bytes) (i j : Nat) : slice (S.map f) i j = (slice S i j).map f := by
  simp [slice, List.map_drop, List.map_take]

/-- A character at an offset of a slice is in it. -/
theorem mem_slice {S : Bytes} {i j k : Nat} {c : Byte} (h : S[k]? = some c) (hi : i ≤ k) (hj : k ≤ j) :
    c ∈ slice S i j := by
  refine List.mem_of_getElem? (i := k - i) ?_
  rw [slice, List.getElem?_take_of_lt (by omega), List.getElem?_drop, show i + (k - i) = k by omega, h]

theorem length_frame (x y z : Byte) (R : Bytes) : ([x] ++ R ++ [y, z]).length = R.length + 3 := by
  simp

theorem slice_frame (x y z : Byte) (R : Bytes) :
    slice ([x] ++ R ++ [y, z]) 1 (([x] ++ R ++ [y, z]).length - 3) = R := by
  refine slice_middle [x] R [y, z] _ ?_
  rw [length_frame, Nat.add_sub_cancel, List.length_singleton, Nat.add_comm]

/-! ## `ASCII.DECODE` -/

section

variable {lowerOk : Bool} {adu : Bytes} (s : State)

theorem asciiDecodeWith_tooLong (h : 513 < adu.length) :
    asciiDecodeWith lowerOk adu s = raise .operandTooLong s := if_pos h

theorem asciiDecodeWith_tooShort (h : adu.length < 9) : asciiDecodeWith lowerOk adu s = raise .frameTooShort s := by
  have hmax : adu.length ≤ 513 := by omega
  rw [asciiDecodeWith, if_neg (not_lt.2 hmax), if_pos h]

theorem asciiDecodeWith_oddRegion (hmin : 9 ≤ adu.length) (hmax : adu.length ≤ 513) (h : (adu.length - 1) % 2 = 1) :
    asciiDecodeWith lowerOk adu s = raise .asciiBoundary s := by
  rw [asciiDecodeWith, if_neg (not_lt.2 hmax), if_neg (not_lt.2 hmin), if_pos (by omega)]

theorem asciiDecodeWith_invalid (hmin : 9 ≤ adu.length) (hmax : adu.length ≤ 513) (heven : (adu.length - 1) % 2 = 0)
    (h : unhexPairs lowerOk (slice adu 1 (adu.length - 3)) = none) :
    asciiDecodeWith lowerOk adu s = raise .hexInvalid s := by
  rw [asciiDecodeWith, if_neg (not_lt.2 hmax), if_neg (not_lt.2 hmin), if_neg (not_not_intro heven), h]

theorem asciiDecodeWith_readable (hmin : 9 ≤ adu.length) (hmax : adu.length ≤ 513) (heven : (adu.length - 1) % 2 = 0)
    {bin : Bytes} (h : unhexPairs lowerOk (slice adu 1 (adu.length - 3)) = some bin) :
    asciiDecodeWith lowerOk adu s = asciiPdu bin s := by
  rw [asciiDecodeWith, if_neg (not_lt.2 hmax), if_neg (not_lt.2 hmin), if_neg (not_not_intro heven), h]

end

/-- R175 on the decoded bytes: the LRC is that of all of them but itself. -/
theorem asciiPdu_frame (slave fc l : Byte) (data : Bytes) (s : State) :
    asciiPdu ([slave, fc] ++ data ++ [l]) s =
      if lrc8 (slave :: fc :: data) ≠ l then raise .checksumMismatch s else reply (.pdu fc data) s := by
  have hlen : ([slave, fc] ++ data ++ [l]).length = data.length + 3 := by simp
  have hbody : slice ([slave, fc] ++ data ++ [l]) 0 (data.length + 3 - 2) = slave :: fc :: data :=
    slice_middle [] (slave :: fc :: data) [l] _ (by simp)
  have hpayload : slice ([slave, fc] ++ data ++ [l]) 2 (data.length + 3 - 2) = data :=
    slice_middle [slave, fc] data [l] _ (by simp; omega)
  have hlrc : byteAt ([slave, fc] ++ data ++ [l]) (data.length + 3 - 1) = l :=
    byteAt_append_right (slave :: fc :: data) [l] 0
  rw [asciiPdu, hlen, hbody, hpayload, hlrc]
  rfl

/-- The same on a frame of upper-case digits, whatever its first and its last two characters are. -/
theorem asciiDecodeWith_hexOf (lowerOk : Bool) (x y z slave fc l : Byte) {data : Bytes} (hdata : data.length ≤ 252)
    (s : State) :
    asciiDecodeWith lowerOk ([x] ++ hexOf ([slave, fc] ++ data ++ [l]) ++ [y, z]) s =
      if lrc8 (slave :: fc :: data) ≠ l then raise .checksumMismatch s else reply (.pdu fc data) s := by
  have hlen : ([x] ++ hexOf ([slave, fc] ++ data ++ [l]) ++ [y, z]).length = 2 * (data.length + 3) + 3 := by
    rw [length_frame, hexOf_length]
    simp
  have hread : unhexPairs lowerOk (slice ([x] ++ hexOf ([slave, fc] ++ data ++ [l]) ++ [y, z]) 1
      (([x] ++ hexOf ([slave, fc] ++ data ++ [l]) ++ [y, z]).length - 3)) = some ([slave, fc] ++ data ++ [l]) := by
    rw [slice_frame, unhexPairs_hexOf]
  rw [asciiDecodeWith_readable s (by omega) (by omega) (by omega) hread, asciiPdu_frame]

/-- Settles O42: the tests of R175 in order; the last is met by a single character of the region. -/
theorem asciiDecodeRejectsUnreadableFrames : Obligations.AsciiDecodeRejectsUnreadableFrames := by
  refine fun adu s => ⟨asciiDecodeWith_tooLong s, asciiDecodeWith_tooShort s, asciiDecodeWith_oddRegion s, ?_⟩
  rintro hmin hmax heven ⟨i, c, hi, hi', hc, hdigit⟩
  refine asciiDecodeWith_invalid s hmin hmax heven
    (unhexPairs_eq_none ((unhex1_eq_none_iff _ c).2 hdigit) ?_ (mem_slice hc hi hi'))
  rw [slice, List.length_take, List.length_drop]
  omega

/-- Settles O43: the digits decode to the bytes they were written from, and the LRC of those decides. -/
theorem asciiDecodeChecksTheLrc : Obligations.AsciiDecodeChecksTheLrc := by
  intro x y z slave fc l data s hdata
  have hframe := asciiDecodeWith_hexOf Config.hexLowerOk x y z slave fc l hdata s
  have hlrc := lrc8_eq_iff (slave :: fc :: data) l
  exact ⟨fun heq => hframe.trans (if_neg (not_not_intro (hlrc.2 heq))),
    fun hne => hframe.trans (if_pos (mt hlrc.1 hne))⟩

/-- Settles O44: the sizes are those of the frame in upper case, and so are the values of its characters. -/
theorem asciiLowerCaseDecodesAsUpperCase : Obligations.AsciiLowerCaseDecodesAsUpperCase := by
  refine fun adu s => ⟨?_, rfl⟩
  simp only [asciiDecodeWith, List.length_map, slice_map, unhexPairs_map_upperHex]

/-! ## The frame R172 builds -/

theorem execAsciiEncode_adu {fc : Byte} {data adu : Bytes} {s t : State} (h : execAsciiEncode fc data s = .next t)
    (ha : t.answer = some ⟨.ok, .adu adu⟩) :
    data.length ≤ 252 ∧ ∃ slave, s.slaveA = some slave ∧ adu = asciiFrame slave fc data := by
  obtain ⟨hlen, slave, hslave, huse⟩ := encode_next_ok h ha
  cases reply_next_iff.1 huse
  cases ha
  exact ⟨hlen, slave, hslave, rfl⟩

/-- Settles O41: the region holds the digits of the body and its LRC, which add up to zero. -/
theorem asciiEncodedFrameLaws : Obligations.AsciiEncodedFrameLaws := by
  intro fc data adu s t h ha
  obtain ⟨-, slave, -, rfl⟩ := execAsciiEncode_adu h ha
  rw [asciiFrame_eq_hexOf, slice_frame]
  generalize hbin : [slave, fc] ++ data ++ [lrc8 ([slave, fc] ++ data)] = bin
  refine ⟨rfl, ?cr, ?lf, fun c => mem_hexDigits_of_mem_hexOf, bin, unhexPairs_hexOf false bin, ?sum⟩
  case cr => simp
  case lf => simp
  case sum => rw [← hbin, byteSum_append_lrc8]

section

variable (slave fc : Byte) (data : Bytes)

theorem asciiFrame_length : (asciiFrame slave fc data).length = 2 * data.length + 9 := by
  simp [asciiFrame]
  omega

/-- The characters R178 examines, with an even number of others in between. -/
theorem asciiFrame_eq_boundaries : ∃ c d body, body.length = 2 * data.length + 4 ∧
    asciiFrame slave fc data = [charColon, c, d] ++ body ++ [charCr, charLf] :=
  ⟨hexchar (slave.extractLsb' 4 4), hexchar (slave.extractLsb' 0 4),
    hexstr (fc :: data) ++ hex2 (lrc8 (slave :: fc :: data)), by simp; omega, by simp [asciiFrame, hexstr_cons, hex2]⟩

theorem execAsciiVerify_asciiFrame {data : Bytes} (h : data.length ≤ 252) (s : State) :
    execAsciiVerify (asciiFrame slave fc data) (asciiFrame slave fc data) s = reply .none s := by
  obtain ⟨c, d, body, hbody, hframe⟩ := asciiFrame_eq_boundaries slave fc data
  have hlen : (body ++ [charCr, charLf]).length = body.length + 2 := List.length_append
  rw [hframe]
  nth_rewrite 1 [List.append_assoc]
  rw [execAsciiVerify_boundaries s _ _ _ _ _ _ _ _ (by omega) (by omega) (by omega) (by omega)]
  simp

/-- The characters before the CR LF are `:` and digits, none of them an LF. -/
theorem asciiFrame_eq_append_crlf : ∃ front, charLf ∉ front ∧ asciiFrame slave fc data = front ++ [charCr, charLf] := by
  refine ⟨[0x3A] ++ hexOf ([slave, fc] ++ data ++ [lrc8 ([slave, fc] ++ data)]), ?_, asciiFrame_eq_hexOf slave fc data⟩
  have hdigits : charLf ∉ hexDigits := by decide
  rw [List.mem_append, not_or]
  exact ⟨by decide, mt mem_hexDigits_of_mem_hexOf hdigits⟩

end

/-- A string that ends in CR LF and holds no other LF has its first CR LF at the end. -/
theorem crlfEnd_append_crlf {front : Bytes} (hlf : charLf ∉ front) :
    crlfEnd (front ++ [charCr, charLf]) = some (front.length + 2) := by
  refine crlfEnd_of_first ⟨by omega, by simp, by simp⟩ fun j hj ⟨_, _, hj'⟩ => ?_
  obtain hin | rfl := Nat.lt_succ_iff_lt_or_eq.1 hj
  · rw [List.getElem?_append_left hin] at hj'
    exact hlf (List.mem_of_getElem? hj')
  · simp at hj'

theorem execAsciiScan_asciiFrame (slave fc : Byte) {data : Bytes} (h : data.length ≤ 252) (s : State) :
    execAsciiScan (asciiFrame slave fc data) s = reply (.scanned (asciiFrame slave fc data) .crlf) s := by
  have hlen := asciiFrame_length slave fc data
  obtain ⟨front, hlf, hframe⟩ := asciiFrame_eq_append_crlf slave fc data
  have hend : crlfEnd ((asciiFrame slave fc data).take 513) = some (asciiFrame slave fc data).length := by
    rw [List.take_of_length_le (by omega), hframe, crlfEnd_append_crlf hlf, List.length_append]
    rfl
  rw [execAsciiScan_crlf s hend, List.take_length]

/-- Settles O47: the encoded frame has its own LRC, its own first characters, and one CR LF, at its end. -/
theorem asciiRoundTrip : Obligations.AsciiRoundTrip := by
  intro id fc data s hdata
  have decoded (lowerOk : Bool) (u : State) :
      asciiDecodeWith lowerOk (asciiFrame id fc data) u = reply (.pdu fc data) u := by
    rw [asciiFrame_eq_hexOf]
    exact (asciiDecodeWith_hexOf lowerOk _ _ _ id fc _ hdata u).trans (if_neg (not_not_intro rfl))
  exact ⟨_, asciiFrame id fc data, performAll_pair (exec_asciiSetSlave id s) (execAsciiEncode_ok fc hdata rfl), rfl,
    fun u => ⟨decoded _ u, fun lowerOk => decoded lowerOk u, execAsciiVerify_asciiFrame id fc hdata u,
      execAsciiScan_asciiFrame id fc hdata u⟩⟩

end Sys2Proof.Machine
end

section
/-! SUPPORT. Encoded MBAP frames (41_mbap_framer.md R132, R140, R141): their length and length field, and what the decode,
header and verify operations answer to them; and the sizes of all three styles (30_encoding.md R87). -/

namespace Sys2Proof.Machine

open Sys2Proof

section

variable (tx : Word16) (unit fc : Byte) (data : Bytes)

theorem mbapFrame_length : (mbapFrame tx unit fc data).length = 8 + data.length := by
  simp [mbapFrame]
  omega

/-- R141: the length field of a frame counts the unit, the function code and the data. -/
theorem toNat_mbapLength_mbapFrame {data : Bytes} (h : data.length ≤ 252) :
    (mbapLength (mbapFrame tx unit fc data)).toNat = 2 + data.length := by
  have hfield : mbapLength (mbapFrame tx unit fc data) = BitVec.ofNat 16 (2 + data.length) := u16be_hi8_lo8 _
  rw [hfield, BitVec.toNat_ofNat, Nat.mod_eq_of_lt (by omega)]

theorem execMbapDecode_mbapFrame {data : Bytes} (h : data.length ≤ 252) (s : State) :
    execMbapDecode (mbapFrame tx unit fc data) s = reply (.pdu fc data) s := by
  have hlen := mbapFrame_length tx unit fc data
  have hfield := toNat_mbapLength_mbapFrame tx unit fc h
  have hpayload : slice (mbapFrame tx unit fc data) 8 ((mbapFrame tx unit fc data).length - 1) = data :=
    slice_after_head rfl
  rw [execMbapDecode_ok s (by omega) (by omega) (by omega), hpayload]
  rfl

theorem execMbapHdr_mbapFrame {data : Bytes} (h : data.length ≤ 252) (s : State) :
    execMbapHdr ((mbapFrame tx unit fc data).take 7) s =
      reply (.bodyLen ((mbapFrame tx unit fc data).length - 7)) s := by
  have hfield : (mbapLength ((mbapFrame tx unit fc data).take 7)).toNat = 2 + data.length :=
    toNat_mbapLength_mbapFrame tx unit fc h
  have hbody : 2 + data.length - 1 = 8 + data.length - 7 := by omega
  rw [execMbapHdr_ok s rfl (by omega) (by omega), hfield, mbapFrame_length, hbody]

theorem execMbapVerify_mbapFrame {data : Bytes} (h : data.length ≤ 252) (s : State) :
    execMbapVerify (mbapFrame tx unit fc data) (mbapFrame tx unit fc data) s = reply .none s := by
  have hlen := mbapFrame_length tx unit fc data
  rw [execMbapVerify_sized s (by omega) (by omega) (by omega) (by omega), if_neg (not_not_intro rfl),
    if_neg (not_not_intro rfl), if_neg (not_not_intro rfl)]

end

/-- Settles O33: the length field is right, and a frame has its own identity. -/
theorem mbapRoundTrip : Obligations.MbapRoundTrip := by
  intro id fc data s hdata
  exact ⟨_, _, _, performAll_pair (exec_mbapSetSlave id s) (execMbapEncode_ok fc hdata rfl), rfl,
    fun u => ⟨execMbapDecode_mbapFrame _ id fc hdata u, execMbapHdr_mbapFrame _ id fc hdata u,
      execMbapVerify_mbapFrame _ id fc hdata u⟩⟩

/-- An encode that answers a frame has incremented the counter and taken its low 16 bits. -/
theorem execMbapEncode_adu {fc : Byte} {data adu : Bytes} {tx : Word16} {s t : State}
    (h : execMbapEncode fc data s = .next t) (ha : t.answer = some ⟨.ok, .mbapAdu adu tx⟩) :
    data.length ≤ 252 ∧ (∃ unit, adu = mbapFrame tx unit fc data) ∧ t.txc = s.txc + 1 ∧
      tx = t.txc.extractLsb' 0 16 := by
  obtain ⟨hlen, unit, -, huse⟩ := encode_next_ok h ha
  cases reply_next_iff.1 huse
  cases ha
  exact ⟨hlen, ⟨unit, rfl⟩, rfl, rfl⟩

/-- Settles O34: bytes 4 and 5 are those of the length field. -/
theorem mbapLengthInvariant : Obligations.MbapLengthInvariant := by
  intro fc data adu tx s t h ha
  obtain ⟨hlen, ⟨unit, rfl⟩, -, -⟩ := execMbapEncode_adu h ha
  have hsize := mbapFrame_length tx unit fc data
  have hfield := toNat_mbapLength_mbapFrame tx unit fc hlen
  rw [mbapLength, toNat_u16be] at hfield
  refine ⟨byteAt (mbapFrame tx unit fc data) 4, byteAt (mbapFrame tx unit fc data) 5, rfl, rfl, ?_, ?_⟩ <;> omega

/-- Settles O48: data of at most 252 bytes, and what each style puts around it. -/
theorem encodedFramesFitTheMaximumSizes : Obligations.EncodedFramesFitTheMaximumSizes := by
  intro fc data s t adu tx
  refine ⟨fun h ha => ?mbap, fun h ha => ?rtu, fun h ha => ?ascii⟩
  case mbap =>
    obtain ⟨hlen, ⟨unit, rfl⟩, -, -⟩ := execMbapEncode_adu h ha
    rw [mbapFrame_length]
    omega
  case rtu =>
    obtain ⟨hlen, slave, -, rfl⟩ := execRtuEncode_adu h ha
    rw [rtuFrame_length]
    omega
  case ascii =>
    obtain ⟨hlen, slave, -, rfl⟩ := execAsciiEncode_adu h ha
    rw [asciiFrame_length]
    omega

end Sys2Proof.Machine
end

section
/-! SUPPORT. The decoder and the encoder are inverse (30_encoding.md R70 to R74), from what each row of the operation map
reads and what each format's reader accepts; and the step by the request it takes (20_memory.md R62, R63). -/

namespace Sys2Proof

/-! ## A record of an operation is read by its row -/

theorem rowReadsRecord : ∀ i : Instr, Laws.RowReadsRecord.Statement i
  | .crcNew => Laws.RowReadsRecord.crcNew
  | .crcPush bytes => Laws.RowReadsRecord.crcPush bytes
  | .crcValue => Laws.RowReadsRecord.crcValue
  | .lrcNew => Laws.RowReadsRecord.lrcNew
  | .lrcPush bytes => Laws.RowReadsRecord.lrcPush bytes
  | .lrcValue => Laws.RowReadsRecord.lrcValue
  | .mbapSetSlave id => Laws.RowReadsRecord.mbapSetSlave id
  | .mbapEncode fc data => Laws.RowReadsRecord.mbapEncode fc data
  | .mbapDecode adu => Laws.RowReadsRecord.mbapDecode adu
  | .mbapVerify req resp => Laws.RowReadsRecord.mbapVerify req resp
  | .mbapHdr hdr => Laws.RowReadsRecord.mbapHdr hdr
  | .rtuSetSlave id => Laws.RowReadsRecord.rtuSetSlave id
  | .rtuEncode fc data => Laws.RowReadsRecord.rtuEncode fc data
  | .rtuDecode adu => Laws.RowReadsRecord.rtuDecode adu
  | .rtuVerify req resp => Laws.RowReadsRecord.rtuVerify req resp
  | .asciiSetSlave id => Laws.RowReadsRecord.asciiSetSlave id
  | .asciiEncode fc data => Laws.RowReadsRecord.asciiEncode fc data
  | .asciiDecode adu => Laws.RowReadsRecord.asciiDecode adu
  | .asciiVerify req resp => Laws.RowReadsRecord.asciiVerify req resp
  | .asciiScan stream => Laws.RowReadsRecord.asciiScan stream
  | .rtupStart slave fc deadline => Laws.RowReadsRecord.rtupStart slave fc deadline
  | .rtupByte b now => Laws.RowReadsRecord.rtupByte b now
  | .rtupTick t => Laws.RowReadsRecord.rtupTick t
  | .timSetBaud n => Laws.RowReadsRecord.timSetBaud n
  | .timChar => Laws.RowReadsRecord.timChar
  | .timT35 => Laws.RowReadsRecord.timT35
  | .timMark t => Laws.RowReadsRecord.timMark t
  | .timPresend t => Laws.RowReadsRecord.timPresend t
  | .timPostsend n => Laws.RowReadsRecord.timPostsend n
  | .timRxtime n => Laws.RowReadsRecord.timRxtime n
  | .timGap t => Laws.RowReadsRecord.timGap t

theorem decode_encode (i : Instr) (h : wellFormed i = true) : decode (encode i) = .ok i := by
  obtain ⟨row, -, hrow, -, hread⟩ := rowReadsRecord i
  rw [decode, hrow]
  simp only [hread, if_pos h]

/-! ## What a row reads is the record of the operation it gives -/

/-- The row gives an operation only for that operation's own record. -/
def OpRow.Sound (row : OpRow) : Prop := ∀ operands i, row.read operands = some i → encode i = ⟨row.op, operands⟩

/-! One lemma a format (R71): the operands its reader accepts are those the encoder writes. -/

section

variable {op : Byte} {name : String}

theorem sound_readN {i : Instr} (h : encode i = ⟨op, []⟩) : OpRow.Sound ⟨op, name, .N, readN i⟩
  | [], _, rfl => h

theorem sound_readS {mk : Byte → Instr} (h : ∀ id, encode (mk id) = ⟨op, [.byte id]⟩) :
    OpRow.Sound ⟨op, name, .S, readS mk⟩
  | [.byte id], _, rfl => h id

theorem sound_readB {mk : Bytes → Instr} (h : ∀ S, encode (mk S) = ⟨op, [.bytes S]⟩) :
    OpRow.Sound ⟨op, name, .B, readB mk⟩
  | [.bytes S], _, rfl => h S

theorem sound_readP {mk : Byte → Bytes → Instr} (h : ∀ fc data, encode (mk fc data) = ⟨op, [.byte fc, .bytes data]⟩) :
    OpRow.Sound ⟨op, name, .P, readP mk⟩
  | [.byte fc, .bytes data], _, rfl => h fc data

theorem sound_readV {mk : Bytes → Bytes → Instr}
    (h : ∀ req resp, encode (mk req resp) = ⟨op, [.bytes req, .bytes resp]⟩) : OpRow.Sound ⟨op, name, .V, readV mk⟩
  | [.bytes req, .bytes resp], _, rfl => h req resp

theorem sound_readPS {mk : Byte → Byte → Time → Instr}
    (h : ∀ slave fc deadline, encode (mk slave fc deadline) = ⟨op, [.byte slave, .byte fc, .time deadline]⟩) :
    OpRow.Sound ⟨op, name, .PS, readPS mk⟩
  | [.byte slave, .byte fc, .time deadline], _, rfl => h slave fc deadline

theorem sound_readPB {mk : Byte → Time → Instr} (h : ∀ b now, encode (mk b now) = ⟨op, [.byte b, .time now]⟩) :
    OpRow.Sound ⟨op, name, .PB, readPB mk⟩
  | [.byte b, .time now], _, rfl => h b now

theorem sound_readT {mk : Time → Instr} (h : ∀ t, encode (mk t) = ⟨op, [.time t]⟩) :
    OpRow.Sound ⟨op, name, .T, readT mk⟩
  | [.time t], _, rfl => h t

theorem sound_readU {mk : Nat → Instr} (h : ∀ n, encode (mk n) = ⟨op, [.nat n]⟩) :
    OpRow.Sound ⟨op, name, .U, readU mk⟩
  | [.nat n], _, rfl => h n

end

/-- Every row of the operation map (R72), by its format. -/
theorem opMap_sound : ∀ row ∈ opMap, row.Sound := by
  simp only [opMap, crcRows, lrcRows, mbapRows, rtuRows, asciiRows, rtupRows, timRows, List.forall_mem_append,
    List.forall_mem_cons]
  refine ⟨⟨⟨⟨⟨⟨?crc, ?lrc⟩, ?mbap⟩, ?rtu⟩, ?ascii⟩, ?rtup⟩, ?tim⟩
  case crc | lrc => exact ⟨sound_readN rfl, sound_readB fun _ => rfl, sound_readN rfl, List.forall_mem_nil _⟩
  case mbap | ascii =>
    exact ⟨sound_readS fun _ => rfl, sound_readP fun _ _ => rfl, sound_readB fun _ => rfl, sound_readV fun _ _ => rfl,
      sound_readB fun _ => rfl, List.forall_mem_nil _⟩
  case rtu =>
    exact ⟨sound_readS fun _ => rfl, sound_readP fun _ _ => rfl, sound_readB fun _ => rfl, sound_readV fun _ _ => rfl,
      List.forall_mem_nil _⟩
  case rtup =>
    exact ⟨sound_readPS fun _ _ _ => rfl, sound_readPB fun _ _ => rfl, sound_readT fun _ => rfl, List.forall_mem_nil _⟩
  case tim =>
    exact ⟨sound_readU fun _ => rfl, sound_readN rfl, sound_readN rfl, sound_readT fun _ => rfl,
      sound_readT fun _ => rfl, sound_readU fun _ => rfl, sound_readU fun _ => rfl, sound_readT fun _ => rfl,
      List.forall_mem_nil _⟩

/-- A record decodes to an operation when its row reads the operation and the operation is well formed. -/
theorem decode_eq_ok {r : Request} {i : Instr} (h : decode r = .ok i) :
    (∃ row, rowOf r.op = some row ∧ row.read r.operands = some i) ∧ wellFormed i = true := by
  rw [decode] at h
  cases hrow : rowOf r.op with
  | none => simp [hrow] at h
  | some row =>
    cases hread : row.read r.operands with
    | none => simp [hrow, hread] at h
    | some j =>
      by_cases hj : wellFormed j = true
      · simp only [hrow, hread, if_pos hj, Except.ok.injEq] at h
        exact ⟨⟨row, rfl, h ▸ hread⟩, h ▸ hj⟩
      · simp [hrow, hread, hj] at h

theorem encode_of_decode {r : Request} {i : Instr} (h : decode r = .ok i) : encode i = r := by
  obtain ⟨⟨row, hrow, hread⟩, -⟩ := decode_eq_ok h
  have hop : row.op = r.op := by simpa using List.find?_some hrow
  rw [opMap_sound row (List.mem_of_find?_eq_some hrow) _ i hread, hop]

/-- Settles O6: the record's row reads it. -/
theorem decodeOfEncode : Obligations.DecodeOfEncode := decode_encode

/-- Settles O7: the row that read the record is sound. -/
theorem recordsHaveOneMeaning : Obligations.RecordsHaveOneMeaning := fun _ _ h =>
  ⟨encode_of_decode h, (decode_eq_ok h).2⟩

/-- Settles O5: each record is the encoding of its operation, which is well formed. -/
theorem sampleRecordsDecode : Obligations.SampleRecordsDecode :=
  ⟨decode_encode (.crcPush [0x11, 0x03]) rfl, decode_encode .lrcValue rfl,
    decode_encode (.mbapEncode 0x04 [0x00, 0x08, 0x00, 0x01]) rfl, decode_encode (.rtuVerify [0x11] [0x12]) rfl,
    decode_encode (.asciiSetSlave 0xF7) rfl, decode_encode (.rtupStart 0x11 0x03 30000) (by decide +kernel),
    decode_encode (.timSetBaud 9600) rfl, decode_encode (.timGap 1718) (by decide +kernel)⟩

namespace Machine

/-! ## The step by the request it takes -/

theorem step_of_no_request {s : State} (h : s.requests = []) : step s = .next s := by
  rw [step, takeRequest_nil h]

theorem step_of_decode {s : State} {r : Request} {rest : List Request} {i : Instr} (h : s.requests = r :: rest)
    (hd : decode r = .ok i) : step s = exec i { s with requests := rest } := by
  rw [step, takeRequest_cons h]
  simp only [hd]

theorem step_of_malformedOperands {s : State} {r : Request} {rest : List Request} (h : s.requests = r :: rest)
    (hd : decode r = .error .malformedOperands) : step s = .fault .malformedRequest := by
  rw [step, takeRequest_cons h]
  simp only [hd]
  rfl

/-- What a step that completes has done: nothing, answered a reserved selector, or performed the well-formed operation
of the request it took. -/
theorem step_cases {s t : State} (h : step s = .next t) :
    t = s ∨
      (∃ r rest, s.requests = r :: rest ∧ t = ({ s with requests := rest } : State).answered ⟨.illegalOp, .none⟩) ∨
      ∃ i rest, s.requests = encode i :: rest ∧ wellFormed i = true ∧ exec i { s with requests := rest } = .next t := by
  cases hq : s.requests with
  | nil =>
    rw [step_of_no_request hq] at h
    cases h
    exact .inl rfl
  | cons r rest =>
    cases hd : decode r with
    | ok i =>
      rw [step_of_decode hq hd] at h
      exact .inr (.inr ⟨i, rest, by rw [encode_of_decode hd], (decode_eq_ok hd).2, h⟩)
    | error e =>
      cases e with
      | reservedSelector =>
        rw [step_of_reservedSelector hq hd] at h
        exact .inr (.inl ⟨r, rest, rfl, raise_next_iff.1 h⟩)
      | malformedOperands =>
        rw [step_of_malformedOperands hq hd] at h
        cases h

/-- Settles O2: the step performs what the decoder makes of the request it takes. -/
theorem stepRunsTheDecodedRequest : Obligations.StepRunsTheDecodedRequest := fun _ _ _ _ => step_of_decode

/-- Settles O3: with an empty queue there is nothing to take, and a malformed request is the decoder's other verdict. -/
theorem stepIdlesAndStopsOnMalformedRequests : Obligations.StepIdlesAndStopsOnMalformedRequests :=
  ⟨fun _ => step_of_no_request, fun _ _ _ => step_of_malformedOperands⟩

end Machine

end Sys2Proof
end

section
/-! SUPPORT. What an operation does to the block (10_state.md R23), said once of all 31: the rows of the parser's table in
which a byte is taken (44_rtu_parser.md R205), the changes of each operation, and that every operation makes one of them,
answers once, and is blind to the requests that wait. -/

namespace Sys2Proof.Machine

open Sys2Proof

/-! ## A byte the parser takes -/

/-- R195 to R201: the byte `x`, in time, takes the parser from `b` to the third block; noise leaves it there. -/
inductive Block.Accepts (b : Block) (x : Byte) : Block → Prop
  | noise (hp : b.pst = .slaveId) (h : x ≠ b.pslave) : b.Accepts x b
  | own (hp : b.pst = .slaveId) (h : x = b.pslave) : b.Accepts x { b with pbuf := [x], pst := .functionCode }
  | counted (hp : b.pst = .functionCode) (h : x = b.pfc) (hl : layoutOf b.pfc = some .counted) :
    b.Accepts x { b with pbuf := b.pbuf ++ [x], pst := .readLength }
  | fixed {n : Nat} (hp : b.pst = .functionCode) (h : x = b.pfc) (hl : layoutOf b.pfc = some (.fixed n)) :
    b.Accepts x { b with pbuf := b.pbuf ++ [x], prem := n, pst := .readPayload }
  | exception (hp : b.pst = .functionCode) (hne : x ≠ b.pfc) (h : x = b.pfc ||| 0x80) :
    b.Accepts x { b with pbuf := b.pbuf ++ [x], prem := 1, pst := .readPayload }
  | count (hp : b.pst = .readLength) (hmin : 1 ≤ x.toNat) (hmax : x.toNat ≤ 251) :
    b.Accepts x { b with pbuf := b.pbuf ++ [x], prem := x.toNat, pst := .readPayload }
  | payload (hp : b.pst = .readPayload) (h : 1 < b.prem) :
    b.Accepts x { b with pbuf := b.pbuf ++ [x], prem := b.prem - 1 }
  | payloadEnd (hp : b.pst = .readPayload) (h : b.prem ≤ 1) :
    b.Accepts x { b with pbuf := b.pbuf ++ [x], prem := 2, pst := .crc }
  | crc (hp : b.pst = .crc) (h : 1 < b.prem) : b.Accepts x { b with pbuf := b.pbuf ++ [x], prem := b.prem - 1 }
  | crcEnd (hp : b.pst = .crc) (h : b.prem ≤ 1) :
    b.Accepts x { b with pbuf := b.pbuf ++ [x], prem := 0, pst := .done }

/-- `RTUP.BYTE` on a byte the parser takes. -/
theorem Block.Accepts.execRtupByte {s : State} {x : Byte} {b' : Block} {now : Time} (h : s.toBlock.Accepts x b')
    (hl : now ≤ s.pdl) : execRtupByte x now s = replyParse { s with toBlock := b' } := by
  cases h with
  | noise hp h => rw [execRtupByte_slaveId x hp hl, inSlaveId, if_neg h]
  | own hp h => rw [execRtupByte_slaveId x hp hl, inSlaveId, if_pos h]
  | counted hp h hlayout => rw [execRtupByte_functionCode x hp hl, inFunctionCode, if_pos h, hlayout]
  | fixed hp h hlayout => rw [execRtupByte_functionCode x hp hl, inFunctionCode, if_pos h, hlayout]
  | exception hp hne h => rw [execRtupByte_functionCode x hp hl, inFunctionCode, if_neg hne, if_pos h]
  | count hp hmin hmax => rw [execRtupByte_readLength x hp hl, inReadLength, if_pos ⟨hmin, hmax⟩]
  | payload hp h => rw [execRtupByte_readPayload x hp hl, inReadPayload, if_neg (by omega)]
  | payloadEnd hp h => rw [execRtupByte_readPayload x hp hl, inReadPayload, if_pos (by omega)]
  | crc hp h => rw [execRtupByte_crc x hp hl, inCrc, if_neg (by omega)]
  | crcEnd hp h => rw [execRtupByte_crc x hp hl, inCrc, if_pos (by omega)]

theorem Block.Accepts.working {b b' : Block} {x : Byte} (h : b.Accepts x b') : b.pst.working = true := by
  cases h <;> simp only [PState.working, *]

/-- A byte in time that the parser does not take fails the parse, whatever requests wait. -/
theorem accepts_or_failParser (x : Byte) {now : Time} {s : State} (hw : s.pst.working = true) (hl : now ≤ s.pdl) :
    (∃ b', s.toBlock.Accepts x b') ∨ ∃ st : Status, st.code ∈ statusCodes (.rtupByte x now) ∧
      ∀ q, execRtupByte x now { s with requests := q } = failParser st { s with requests := q } := by
  cases hp : s.pst with
  | idle | done | failed => simp [hp, PState.working] at hw
  | slaveId =>
    by_cases h : x = s.pslave
    · exact .inl ⟨_, .own hp h⟩
    · exact .inl ⟨_, .noise hp h⟩
  | functionCode =>
    by_cases h : x = s.pfc
    · obtain hlayout | hlayout | hlayout | hlayout := layoutOf_cases s.pfc
      · exact .inl ⟨_, .counted hp h hlayout⟩
      · exact .inl ⟨_, .fixed hp h hlayout⟩
      · exact .inl ⟨_, .fixed hp h hlayout⟩
      · exact .inr ⟨.unsupportedFc, by simp [statusCodes], fun q =>
          (execRtupByte_functionCode (s := { s with requests := q }) x hp hl).trans
            (inFunctionCode_unsupported h hlayout)⟩
    · by_cases hexc : x = s.pfc ||| 0x80
      · exact .inl ⟨_, .exception hp h hexc⟩
      · exact .inr ⟨.unexpectedFc, by simp [statusCodes], fun q =>
          (execRtupByte_functionCode (s := { s with requests := q }) x hp hl).trans
            (inFunctionCode_unexpected h hexc)⟩
  | readLength =>
    by_cases h : 1 ≤ x.toNat ∧ x.toNat ≤ 251
    · exact .inl ⟨_, .count hp h.1 h.2⟩
    · exact .inr ⟨.invalidLength, by simp [statusCodes], fun q =>
        (execRtupByte_readLength (s := { s with requests := q }) x hp hl).trans (inReadLength_invalid (by omega))⟩
  | readPayload =>
    by_cases h : 1 < s.prem
    · exact .inl ⟨_, .payload hp h⟩
    · exact .inl ⟨_, .payloadEnd hp (not_lt.1 h)⟩
  | crc =>
    by_cases h : 1 < s.prem
    · exact .inl ⟨_, .crc hp h⟩
    · exact .inl ⟨_, .crcEnd hp (not_lt.1 h)⟩

/-! ## What an operation may do to the block -/

/-- The changes of each operation: none, or what its rule writes, under the rule's guards. -/
inductive Effect (b : Block) : Instr → Block → Prop
  | unchanged (i : Instr) : Effect b i b
  | crcNew : Effect b .crcNew { b with crc := some crcInit }
  | crcPush {c : Word16} (h : b.crc = some c) (S : Bytes) : Effect b (.crcPush S) { b with crc := some (crcFold c S) }
  | lrcNew : Effect b .lrcNew { b with sum := some 0 }
  | lrcPush {v : Byte} (h : b.sum = some v) (S : Bytes) : Effect b (.lrcPush S) { b with sum := some (lrcFold v S) }
  | mbapSetSlave (id : Byte) : Effect b (.mbapSetSlave id) { b with slaveM := some id }
  | mbapEncode (fc : Byte) {data : Bytes} (h : data.length ≤ 252) :
    Effect b (.mbapEncode fc data) { b with txc := b.txc + 1 }
  | rtuSetSlave (id : Byte) : Effect b (.rtuSetSlave id) { b with slaveR := some id }
  | asciiSetSlave (id : Byte) : Effect b (.asciiSetSlave id) { b with slaveA := some id }
  | rtupStart (slave fc : Byte) (deadline : Time) :
    Effect b (.rtupStart slave fc deadline)
      { b with pslave := slave, pfc := fc, pdl := deadline, pbuf := [], prem := 0, pst := .slaveId }
  | rtupByte {x : Byte} {b' : Block} (h : b.Accepts x b') (now : Time) : Effect b (.rtupByte x now) b'
  | rtupByteFails (hw : b.pst.working = true) (x : Byte) (now : Time) :
    Effect b (.rtupByte x now) { b with pst := .failed }
  | rtupTickFails (hw : b.pst.working = true) (t : Time) : Effect b (.rtupTick t) { b with pst := .failed }
  | timSetBaud {n : Nat} (h : 0 < n) : Effect b (.timSetBaud n) { b with baud := some n }
  | timMark {t : Time} (h : ∀ last, b.lastAct = some last → last ≤ t) :
    Effect b (.timMark t) { b with lastAct := some t }

/-- The operation `i`, begun in `s`, ends in `o`, and with the requests `q` waiting instead in `o'`: it completes with one
answer, `OK` or a status of its row without results (R70, R256), makes one of its changes to the block, and leaves the
requests as they are. -/
def Performs (i : Instr) (s : State) (q : List Request) (o o' : Out) : Prop :=
  ∃ t a, o = .next t ∧ o' = .next { t with requests := q } ∧ t.answer = some a ∧ t.requests = s.requests ∧
    Effect s.toBlock i t.toBlock ∧ (a.status = .ok ∨ a.status.code ∈ statusCodes i ∧ a.results = .none)

namespace Performs

variable {i : Instr} {s : State} {q : List Request}

theorem reply {r : Results} {u : State} (hu : u.requests = s.requests) (h : Effect s.toBlock i u.toBlock) :
    Performs i s q (reply r u) (reply r { u with requests := q }) :=
  ⟨_, _, rfl, rfl, rfl, hu, h, .inl rfl⟩

/-- A reply that only carries results. -/
theorem result {r : Results} : Performs i s q (Machine.reply r s) (Machine.reply r { s with requests := q }) :=
  .reply rfl (.unchanged i)

theorem raise {st : Status} (h : st.code ∈ statusCodes i := by simp [statusCodes, Status.code]) :
    Performs i s q (raise st s) (raise st { s with requests := q }) :=
  ⟨_, _, rfl, rfl, rfl, rfl, .unchanged i, .inr ⟨h, rfl⟩⟩

theorem failParser {st : Status} (h : st.code ∈ statusCodes i)
    (heffect : Effect s.toBlock i { s.toBlock with pst := .failed }) :
    Performs i s q (failParser st s) (failParser st { s with requests := q }) :=
  ⟨_, _, rfl, rfl, rfl, rfl, heffect, .inr ⟨h, rfl⟩⟩

theorem ite {p : Prop} [Decidable p] {a a' c c' : Out} (ha : p → Performs i s q a a')
    (hc : ¬p → Performs i s q c c') : Performs i s q (if p then a else c) (if p then a' else c') := by
  by_cases hp : p
  · rw [if_pos hp, if_pos hp]
    exact ha hp
  · rw [if_neg hp, if_neg hp]
    exact hc hp

/-- A check that raises a status of the row; the rest of the operation may use that it was passed. -/
theorem guarded {p : Prop} [Decidable p] {st : Status} {c c' : Out} (hc : ¬p → Performs i s q c c')
    (h : st.code ∈ statusCodes i := by simp [statusCodes, Status.code]) :
    Performs i s q (if p then Machine.raise st s else c)
      (if p then Machine.raise st { s with requests := q } else c') :=
  .ite (fun _ => .raise h) hc

/-- The same with a rest that needs nothing of the check. -/
theorem check {p : Prop} [Decidable p] {st : Status} {c c' : Out} (hc : Performs i s q c c')
    (h : st.code ∈ statusCodes i := by simp [statusCodes, Status.code]) :
    Performs i s q (if p then Machine.raise st s else c)
      (if p then Machine.raise st { s with requests := q } else c') :=
  .guarded (fun _ => hc) h

theorem need {α : Type} {e : Option α} {use use' : α → Out}
    (hu : ∀ v, e = some v → Performs i s q (use v) (use' v))
    (h : Status.uninit.code ∈ statusCodes i := by simp [statusCodes]) :
    Performs i s q (need e s use) (need e { s with requests := q } use') := by
  cases e with
  | none => exact raise h
  | some v => exact hu v rfl

theorem replyParse {u : State} (hu : u.requests = s.requests) (h : Effect s.toBlock i u.toBlock) :
    Performs i s q (replyParse u) (replyParse { u with requests := q }) :=
  .ite (fun _ => .reply hu h) fun _ => .reply hu h

end Performs

/-! ## The operations that are more than checks and a reply -/

section

variable (s : State) (q : List Request)

theorem asciiDecodeWith_performs (lowerOk : Bool) (adu : Bytes) :
    Performs (.asciiDecode adu) s q (asciiDecodeWith lowerOk adu s)
      (asciiDecodeWith lowerOk adu { s with requests := q }) := by
  refine .check (.check (.check ?_))
  cases unhexPairs lowerOk (slice adu 1 (adu.length - 3)) with
  | none => exact .raise
  | some bin => exact .check .result

theorem execAsciiScan_performs (stream : Bytes) :
    Performs (.asciiScan stream) s q (execAsciiScan stream s) (execAsciiScan stream { s with requests := q }) := by
  unfold execAsciiScan
  cases crlfEnd (stream.take asciiMax) with
  | some n => exact .result
  | none => exact .ite (fun _ => .result) fun _ => .result

theorem execRtupByte_performs (x : Byte) (now : Time) :
    Performs (.rtupByte x now) s q (execRtupByte x now s) (execRtupByte x now { s with requests := q }) := by
  cases hw : s.pst.working with
  | false =>
    rw [execRtupByte_inactive x now hw, execRtupByte_inactive x now (by exact hw)]
    exact .raise
  | true =>
    obtain hl | hl := lt_or_ge s.pdl now
    · rw [execRtupByte_late x hw hl, execRtupByte_late x (by exact hw) (by exact hl)]
      exact .failParser (by simp [statusCodes]) (.rtupByteFails hw x now)
    · obtain ⟨b', h⟩ | ⟨st, hst, h⟩ := accepts_or_failParser x hw hl
      · rw [h.execRtupByte hl, Block.Accepts.execRtupByte (s := { s with requests := q }) h hl]
        exact .replyParse rfl (.rtupByte h now)
      · rw [h q, show execRtupByte x now s = failParser st s from h s.requests]
        exact .failParser hst (.rtupByteFails hw x now)

theorem execTimMark_performs (t : Time) :
    Performs (.timMark t) s q (execTimMark t s) (execTimMark t { s with requests := q }) := by
  unfold execTimMark
  dsimp only
  cases h : s.lastAct with
  | none => exact .reply rfl (.timMark (by simp [h]))
  | some last =>
    exact .guarded fun hlast => .reply rfl (.timMark fun _ hl => Option.some.inj (h.symm.trans hl) ▸ not_lt.1 hlast)

theorem execTimPresend_performs (t : Time) :
    Performs (.timPresend t) s q (execTimPresend t s) (execTimPresend t { s with requests := q }) := by
  refine .need fun B _ => ?_
  dsimp only
  cases s.lastAct with
  | none => exact .result
  | some last => exact .ite (fun _ => .result) fun _ => .result

end

/-- What every operation does, from every state and with any requests waiting. -/
theorem exec_performs (i : Instr) (s : State) (q : List Request) :
    Performs i s q (exec i s) (exec i { s with requests := q }) := by
  cases i with
  | crcNew => exact .reply rfl .crcNew
  | crcPush S => exact .need fun c hc => .reply rfl (.crcPush hc S)
  | lrcNew => exact .reply rfl .lrcNew
  | lrcPush S => exact .need fun v hv => .reply rfl (.lrcPush hv S)
  | crcValue | lrcValue | timChar | timT35 | timPostsend | timRxtime => exact .need fun _ _ => .result
  | mbapSetSlave id => exact .reply rfl (.mbapSetSlave id)
  | rtuSetSlave id => exact .reply rfl (.rtuSetSlave id)
  | asciiSetSlave id => exact .reply rfl (.asciiSetSlave id)
  | mbapEncode fc data =>
    exact .guarded fun hlen => .need fun _ _ => .reply rfl (.mbapEncode fc (not_lt.1 hlen))
  | rtuEncode | asciiEncode => exact .check (.need fun _ _ => .result)
  | mbapHdr => exact .check (.check .result)
  | mbapDecode | rtuDecode => exact .check (.check (.check .result))
  | rtuVerify => exact .check (.check (.check (.check .result)))
  | mbapVerify => exact .check (.check (.check (.check (.check (.check .result)))))
  | asciiVerify => exact .check (.check (.check (.check (.check (.check (.check .result))))))
  | asciiDecode adu => exact asciiDecodeWith_performs s q _ adu
  | asciiScan stream => exact execAsciiScan_performs s q stream
  | rtupStart slave fc deadline => exact .reply rfl (.rtupStart slave fc deadline)
  | rtupByte x now => exact execRtupByte_performs s q x now
  | rtupTick t =>
    exact .ite (fun hw => .ite (fun _ => .failParser (by simp [statusCodes]) (.rtupTickFails hw t)) fun _ => .result)
      fun _ => .raise
  | timSetBaud n => exact .guarded fun hn => .reply rfl (.timSetBaud (Nat.pos_of_ne_zero hn))
  | timMark t => exact execTimMark_performs s q t
  | timPresend t => exact execTimPresend_performs s q t
  | timGap => exact .need fun _ _ => .ite (fun _ => .result) fun _ => .ite (fun _ => .result) fun _ => .result

end Sys2Proof.Machine
end

section
/-! SUPPORT. What follows for every operation from the changes it can make: its answer (R70, R256), the elements outside
its row (R23, R36), and the units that no operation but their own initialises (R284). -/

namespace Sys2Proof.Machine

open Sys2Proof

/-- Every operation completes, with one answer. -/
theorem exec_completes (i : Instr) (s : State) : ∃ t, exec i s = .next t := by
  obtain ⟨t, -, h, -⟩ := exec_performs i s s.requests
  exact ⟨t, h⟩

/-- What an operation that ended in `t` has done. -/
theorem exec_next {i : Instr} {s t : State} (h : exec i s = .next t) :
    t.requests = s.requests ∧ Effect s.toBlock i t.toBlock ∧
      ∃ a, t.answer = some a ∧ (a.status = .ok ∨ a.status.code ∈ statusCodes i ∧ a.results = .none) := by
  obtain ⟨u, a, hu, -, ha, hrequests, heffect, hstatus⟩ := exec_performs i s s.requests
  cases h.symm.trans hu
  exact ⟨hrequests, heffect, a, ha, hstatus⟩

theorem exec_effect {i : Instr} {s t : State} (h : exec i s = .next t) : Effect s.toBlock i t.toBlock :=
  (exec_next h).2.1

/-- Settles O9: an answer is `OK` or comes without results. -/
theorem everyOperationAnswers : Obligations.EveryOperationAnswers := by
  intro i s
  obtain ⟨t, ht⟩ := exec_completes i s
  obtain ⟨hrequests, -, a, ha, hstatus⟩ := exec_next ht
  exact ⟨t, a, ht, ha, hrequests, fun hne => (hstatus.resolve_left hne).2⟩

/-- Settles O10: an answer is `OK` or has a status of the operation's row. -/
theorem statusesAreThoseOfTheTable : Obligations.StatusesAreThoseOfTheTable := by
  intro i s t a h ha
  obtain ⟨-, -, a', ha', hstatus⟩ := exec_next h
  cases ha.symm.trans ha'
  exact hstatus.imp_right And.left

/-! ## The elements an operation leaves alone -/

theorem Block.Agree.refl (b : Block) (e : Elem) : b.Agree b e := by
  cases e <;> rfl

/-- Taking a byte touches the parser's state, buffer and count alone. -/
theorem Block.Accepts.agree {b b' : Block} {x : Byte} (h : b.Accepts x b') {e : Elem} (hpst : e ≠ .pst)
    (hpbuf : e ≠ .pbuf) (hprem : e ≠ .prem) : b'.Agree b e := by
  cases e with
  | pst => exact absurd rfl hpst
  | pbuf => exact absurd rfl hpbuf
  | prem => exact absurd rfl hprem
  | _ => cases h <;> rfl

/-- The frame of every operation: an element that is not in its row is not among its changes. -/
theorem Effect.agree {b b' : Block} {i : Instr} (h : Effect b i b') {e : Elem} (he : e ∉ writes i) : b'.Agree b e := by
  cases h with
  | unchanged => exact .refl b e
  | rtupByte h now =>
    simp only [writes, List.mem_cons, List.not_mem_nil, or_false, not_or] at he
    obtain ⟨hpst, hpbuf, hprem⟩ := he
    exact h.agree hpst hpbuf hprem
  | _ => cases e <;> simp [writes, Block.Agree] at he ⊢

/-- Settles O14: an operation makes one of its changes and leaves the requests as they are. -/
theorem operationsChangeOnlyTheirElements : Obligations.OperationsChangeOnlyTheirElements := by
  intro i s t h
  obtain ⟨hrequests, heffect, -⟩ := exec_next h
  exact ⟨hrequests, fun e => heffect.agree⟩

/-! ## The units no other operation initialises: the frame, but for the elements a unit's other operations write -/

namespace Effect

variable {b b' : Block} {i : Instr}

theorem crc_none (he : Effect b i b') (h : b.crc = none) (hi : i ≠ .crcNew) : b'.crc = none := by
  cases he with
  | crcNew => exact absurd rfl hi
  | crcPush hc => cases h.symm.trans hc
  | rtupByte ha => exact (ha.agree (e := .crc) nofun nofun nofun).trans h
  | _ => exact h

theorem sum_none (he : Effect b i b') (h : b.sum = none) (hi : i ≠ .lrcNew) : b'.sum = none := by
  cases he with
  | lrcNew => exact absurd rfl hi
  | lrcPush hv => cases h.symm.trans hv
  | rtupByte ha => exact (ha.agree (e := .sum) nofun nofun nofun).trans h
  | _ => exact h

theorem slaveM_none (he : Effect b i b') (h : b.slaveM = none) (hi : ∀ id, i ≠ .mbapSetSlave id) :
    b'.slaveM = none := by
  have hframe : Elem.slaveM ∉ writes i := by cases i <;> simp [writes] at hi ⊢
  exact (he.agree hframe).trans h

theorem slaveR_none (he : Effect b i b') (h : b.slaveR = none) (hi : ∀ id, i ≠ .rtuSetSlave id) :
    b'.slaveR = none := by
  have hframe : Elem.slaveR ∉ writes i := by cases i <;> simp [writes] at hi ⊢
  exact (he.agree hframe).trans h

theorem slaveA_none (he : Effect b i b') (h : b.slaveA = none) (hi : ∀ id, i ≠ .asciiSetSlave id) :
    b'.slaveA = none := by
  have hframe : Elem.slaveA ∉ writes i := by cases i <;> simp [writes] at hi ⊢
  exact (he.agree hframe).trans h

/-- The parser takes a byte, or fails a parse, only while it is working. -/
theorem pst_idle (he : Effect b i b') (h : b.pst = .idle) (hi : ∀ slave fc deadline, i ≠ .rtupStart slave fc deadline) :
    b'.pst = .idle := by
  have hw : b.pst.working ≠ true := by simp [h, PState.working]
  cases he with
  | rtupStart slave fc deadline => exact absurd rfl (hi slave fc deadline)
  | rtupByte ha => exact absurd ha.working hw
  | rtupByteFails hw' => exact absurd hw' hw
  | rtupTickFails hw' => exact absurd hw' hw
  | _ => exact h

theorem baud_none (he : Effect b i b') (h : b.baud = none) (hi : ∀ n, i ≠ .timSetBaud n) :
    b'.baud = none := by
  have hframe : Elem.baud ∉ writes i := by cases i <;> simp [writes] at hi ⊢
  exact (he.agree hframe).trans h

end Effect

/-- A unit whose state only the operation at selector `op` changes stays as it is while no request for it waits. -/
theorem step_keeps_uninitialised {Uninit : Block → Prop} {op : Byte}
    (hkeeps : ∀ {b i b'}, Effect b i b' → Uninit b → (encode i).op ≠ op → Uninit b') {s t : State}
    (h : step s = .next t) (hs : Uninit s.toBlock ∧ s.NonePending op) : Uninit t.toBlock ∧ t.NonePending op := by
  obtain ⟨hunit, hnone⟩ := hs
  obtain rfl | ⟨r, rest, hq, rfl⟩ | ⟨i, rest, hq, -, hexec⟩ := step_cases h
  · exact ⟨hunit, hnone⟩
  · exact ⟨hunit, fun r' hr' => hnone r' (hq ▸ List.mem_cons_of_mem _ hr')⟩
  · obtain ⟨hrequests, heffect, -⟩ := exec_next hexec
    refine ⟨hkeeps heffect hunit (hnone _ (hq ▸ List.mem_cons_self)), fun r' hr' => hnone r' ?_⟩
    rw [hrequests] at hr'
    exact hq ▸ List.mem_cons_of_mem _ hr'

theorem ne_of_selector_ne {i j : Instr} {op : Byte} (h : (encode i).op ≠ op) (hj : (encode j).op = op) : i ≠ j :=
  fun hij => h (hij ▸ hj)

/-- Settles O60: each unit by the changes that reach it; in a step, the operation is the one of the request taken. -/
theorem uninitialisedUnitsStayUninitialised : Obligations.UninitialisedUnitsStayUninitialised := by
  refine ⟨fun i s t h => ?_, fun s t h => ?_⟩
  · have he := exec_effect h
    exact ⟨he.crc_none, he.sum_none, he.slaveM_none, he.slaveR_none, he.slaveA_none, he.pst_idle, he.baud_none⟩
  · exact
      ⟨step_keeps_uninitialised (fun he hb hop => he.crc_none hb (ne_of_selector_ne hop rfl)) h,
        step_keeps_uninitialised (fun he hb hop => he.sum_none hb (ne_of_selector_ne hop rfl)) h,
        step_keeps_uninitialised (fun he hb hop => he.slaveM_none hb fun _ => ne_of_selector_ne hop rfl) h,
        step_keeps_uninitialised (fun he hb hop => he.slaveR_none hb fun _ => ne_of_selector_ne hop rfl) h,
        step_keeps_uninitialised (fun he hb hop => he.slaveA_none hb fun _ => ne_of_selector_ne hop rfl) h,
        step_keeps_uninitialised (fun he hb hop => he.pst_idle hb fun _ _ _ => ne_of_selector_ne hop rfl) h,
        step_keeps_uninitialised (fun he hb hop => he.baud_none hb fun _ => ne_of_selector_ne hop rfl) h⟩

/-- What every operation of a sequence keeps of the block, the sequence keeps. -/
theorem performAll_keeps {P : Block → Prop} {ops : List Instr}
    (hkeeps : ∀ i ∈ ops, ∀ {b b'}, Effect b i b' → P b → P b') {s t : State} (h : performAll ops s = .next t)
    (hs : P s.toBlock) : P t.toBlock := by
  induction ops generalizing s with
  | nil =>
    cases h
    exact hs
  | cons i ops ih =>
    obtain ⟨u, hu, ht⟩ := performAll_cons_next h
    exact ih (fun j hj => hkeeps j (List.mem_cons_of_mem i hj)) ht (hkeeps i List.mem_cons_self (exec_effect hu) hs)

/-- The operations that need no initialised unit never raise the two refusals of one that is not. -/
theorem uninit_not_mem_statusCodes {i : Instr} (h : needsInit i = false) :
    Status.uninit.code ∉ statusCodes i ∧ Status.parserNotActive.code ∉ statusCodes i := by
  revert h
  cases i <;> simp [needsInit, statusCodes, Status.code]

/-- Settles O17: a unit's element is as at reset after operations that do not initialise it, and each of its working
operations is refused there; the others raise neither refusal. -/
theorem unitsRefuseUntilInitialised : Obligations.UnitsRefuseUntilInitialised := by
  refine ⟨fun ops t h => ⟨fun hops S => ?crc, fun hops S => ?lrc, fun hops fc data hlen => ?mbap,
    fun hops fc data hlen => ?rtu, fun hops fc data hlen => ?ascii, fun hops b now => ?rtup, fun hops n x => ?tim⟩,
    fun i hi => ?other⟩
  case crc =>
    have hcrc : t.crc = none :=
      performAll_keeps (P := (·.crc = none)) (fun i hi _ _ he hb => he.crc_none hb (ne_of_mem_of_not_mem hi hops)) h rfl
    exact ⟨exec_crcPush_of_none hcrc S, exec_crcValue_of_none hcrc⟩
  case lrc =>
    have hsum : t.sum = none :=
      performAll_keeps (P := (·.sum = none)) (fun i hi _ _ he hb => he.sum_none hb (ne_of_mem_of_not_mem hi hops)) h rfl
    exact ⟨exec_lrcPush_of_none hsum S, exec_lrcValue_of_none hsum⟩
  case mbap =>
    exact execMbapEncode_uninit fc hlen (performAll_keeps (P := (·.slaveM = none))
      (fun i hi _ _ he hb => he.slaveM_none hb fun id => ne_of_mem_of_not_mem hi (hops id)) h rfl)
  case rtu =>
    exact execRtuEncode_uninit fc hlen (performAll_keeps (P := (·.slaveR = none))
      (fun i hi _ _ he hb => he.slaveR_none hb fun id => ne_of_mem_of_not_mem hi (hops id)) h rfl)
  case ascii =>
    exact execAsciiEncode_uninit fc hlen (performAll_keeps (P := (·.slaveA = none))
      (fun i hi _ _ he hb => he.slaveA_none hb fun id => ne_of_mem_of_not_mem hi (hops id)) h rfl)
  case rtup =>
    have hpst : t.pst = .idle := performAll_keeps (P := (·.pst = .idle))
      (fun i hi _ _ he hb => he.pst_idle hb fun slave fc deadline =>
        ne_of_mem_of_not_mem hi (hops slave fc deadline)) h rfl
    have hw : t.pst.working = false := (PState.working_eq_false_iff _).2 (.inl hpst)
    exact ⟨execRtupByte_inactive b now hw, execRtupTick_inactive now hw⟩
  case tim =>
    have hbaud : t.baud = none := performAll_keeps (P := (·.baud = none))
      (fun i hi _ _ he hb => he.baud_none hb fun n => ne_of_mem_of_not_mem hi (hops n)) h rfl
    exact ⟨exec_timChar_uninit hbaud, exec_timT35_uninit hbaud, exec_timPresend_uninit hbaud x,
      exec_timPostsend_uninit hbaud n, exec_timRxtime_uninit hbaud n, exec_timGap_uninit hbaud x⟩
  case other =>
    obtain ⟨t, ht⟩ := exec_completes i State.reset
    obtain ⟨-, -, a, ha, hstatus⟩ := exec_next ht
    obtain ⟨huninit, hinactive⟩ := uninit_not_mem_statusCodes hi
    refine ⟨t, a, ht, ha, fun hst => ?_, fun hst => ?_⟩ <;> simp [hst, huninit, hinactive] at hstatus

/-! ## Transaction IDs -/

/-- Only an encode of data that is not too long counts up. -/
theorem Effect.txc_eq {b b' : Block} {i : Instr} (he : Effect b i b')
    (hi : ∀ fc data, i = .mbapEncode fc data → 252 < data.length) : b'.txc = b.txc := by
  cases he with
  | mbapEncode fc hlen => exact absurd (hi fc _ rfl) (not_lt.2 hlen)
  | rtupByte ha => exact ha.agree (e := .txc) nofun nofun nofun
  | _ => rfl

/-- Settles O29: the counter is after the operations in between what the first encode left, and the second adds one. -/
theorem mbapTransactionIdsAreSuccessive : Obligations.MbapTransactionIdsAreSuccessive := by
  intro s t s' t' fc fc' data data' adu adu' tx tx' between h ha hbetween hs' h' ha'
  obtain ⟨-, -, -, rfl⟩ := execMbapEncode_adu h ha
  obtain ⟨-, -, ht', rfl⟩ := execMbapEncode_adu h' ha'
  have hkept : s'.txc = t.txc := performAll_keeps (P := (·.txc = t.txc))
    (fun i hi _ _ he hb => (he.txc_eq fun fc data hij => hbetween fc data (hij ▸ hi)).trans hb) hs' rfl
  rw [ht', hkept, BitVec.extractLsb'_toNat, BitVec.extractLsb'_toNat, BitVec.toNat_add]
  simp

end Sys2Proof.Machine
end

section
/-! SUPPORT. The invariant of the state (10_state.md R38, 44_rtu_parser.md R205, 45_timing.md R220): what it says in each
parser state, that every change of an operation keeps it, and that R38 follows from it. -/

namespace Sys2Proof.Machine

open Sys2Proof

/-! ## The parser's part -/

namespace Block

variable {b b' : Block} {x : Byte}

/-- A frame with its header keeps it when a byte is appended. -/
theorem Headed.append (h : b.Headed) (hpbuf : b'.pbuf = b.pbuf ++ [x]) (hslave : b'.pslave = b.pslave)
    (hpfc : b'.pfc = b.pfc) : b'.Headed := by
  obtain ⟨fc, rest, hb, hfc⟩ := h
  refine ⟨fc, rest ++ [x], ?_, hpfc ▸ hfc⟩
  rw [hpbuf, hb, hslave]
  rfl

theorem Headed.length (h : b.Headed) : 2 ≤ b.pbuf.length := by
  obtain ⟨fc, rest, hb, -⟩ := h
  simp [hb]

/-! What the invariant says in each state. -/

section

variable (h : b.ParserInv)
include h

theorem ParserInv.functionCode (hp : b.pst = .functionCode) : b.pbuf = [b.pslave] := by
  simpa only [ParserInv, hp] using h

theorem ParserInv.readLength (hp : b.pst = .readLength) : b.pbuf = [b.pslave, b.pfc] := by
  simpa only [ParserInv, hp] using h

theorem ParserInv.readPayload (hp : b.pst = .readPayload) :
    1 ≤ b.prem ∧ b.prem ≤ 251 ∧ b.Headed ∧ b.pbuf.length + b.prem + 2 ≤ 256 := by
  simpa only [ParserInv, hp] using h

theorem ParserInv.crc (hp : b.pst = .crc) :
    1 ≤ b.prem ∧ b.prem ≤ 2 ∧ b.Headed ∧ 5 ≤ b.pbuf.length + b.prem ∧ b.pbuf.length + b.prem ≤ 256 := by
  simpa only [ParserInv, hp] using h

theorem ParserInv.done (hp : b.pst = .done) : b.Headed ∧ 5 ≤ b.pbuf.length ∧ b.pbuf.length ≤ 256 := by
  simpa only [ParserInv, hp] using h

theorem ParserInv.length_le : b.pbuf.length ≤ 256 := by
  cases hp : b.pst <;> simp only [ParserInv, hp] at h
  case failed => exact h
  case idle | slaveId | functionCode | readLength => simp [h]
  case readPayload | crc | done => omega

end

end Block

theorem layoutOf_fixed {fc : Byte} {n : Nat} (h : layoutOf fc = some (.fixed n)) : n = 4 ∨ n = 6 := by
  obtain h' | h' | h' | h' := layoutOf_cases fc <;> rw [h'] at h <;> cases h
  · exact .inl rfl
  · exact .inr rfl

/-- The byte a parser takes keeps its invariant: the header is built up, and what is appended is taken from the count. -/
theorem Block.Accepts.parserInv {b b' : Block} {x : Byte} (ha : b.Accepts x b') (h : b.ParserInv) : b'.ParserInv := by
  cases ha with
  | noise => exact h
  | own hp hx => exact congrArg (fun y => [y]) hx
  | counted hp hx hl =>
    have hbuf := h.functionCode hp
    simp [ParserInv, hbuf, hx]
  | fixed hp hx hl =>
    have hbuf := h.functionCode hp
    obtain rfl | rfl := layoutOf_fixed hl
    · exact ⟨by simp, by simp, ⟨x, [], by simp [hbuf], .inl hx⟩, by simp [hbuf]⟩
    · exact ⟨by simp, by simp, ⟨x, [], by simp [hbuf], .inl hx⟩, by simp [hbuf]⟩
  | exception hp hne hx =>
    have hbuf := h.functionCode hp
    exact ⟨by simp, by simp, ⟨x, [], by simp [hbuf], .inr hx⟩, by simp [hbuf]⟩
  | count hp hmin hmax =>
    have hbuf := h.readLength hp
    exact ⟨hmin, hmax, ⟨b.pfc, [x], by simp [hbuf], .inl rfl⟩, by simp [hbuf]; omega⟩
  | payload hp hmore =>
    obtain ⟨-, hmax, hhead, hlen⟩ := h.readPayload hp
    simp only [ParserInv, hp]
    exact ⟨by omega, by omega, hhead.append rfl rfl rfl, by rw [List.length_append, List.length_singleton]; omega⟩
  | payloadEnd hp hlast =>
    obtain ⟨hmin, -, hhead, hlen⟩ := h.readPayload hp
    have := hhead.length
    refine ⟨by simp, by simp, hhead.append rfl rfl rfl, ?_⟩
    simp only [List.length_append, List.length_singleton]
    omega
  | crc hp hmore =>
    obtain ⟨-, hmax, hhead, hlen⟩ := h.crc hp
    simp only [ParserInv, hp]
    refine ⟨by omega, by omega, hhead.append rfl rfl rfl, ?_⟩
    simp only [List.length_append, List.length_singleton]
    omega
  | crcEnd hp hlast =>
    obtain ⟨hmin, -, hhead, hlen⟩ := h.crc hp
    refine ⟨hhead.append rfl rfl rfl, ?_⟩
    simp only [List.length_append, List.length_singleton]
    omega

theorem Effect.parserInv {b b' : Block} {i : Instr} (he : Effect b i b') (h : b.ParserInv) : b'.ParserInv := by
  cases he with
  | rtupStart => exact rfl
  | rtupByte ha => exact ha.parserInv h
  | rtupByteFails => exact h.length_le
  | rtupTickFails => exact h.length_le
  | _ => exact h

/-! ## The timing unit's part -/

theorem timeInRange_iff (t : Time) : timeInRange t = true ↔ 0 ≤ t := decide_eq_true_iff

theorem Effect.timesInv {b b' : Block} {i : Instr} (he : Effect b i b') (hi : wellFormed i = true) (h : b.TimesInv) :
    b'.TimesInv := by
  have kept (hpdl : b'.pdl = b.pdl) (hbaud : b'.baud = b.baud) (hlast : b'.lastAct = b.lastAct) : b'.TimesInv := by
    rwa [Block.TimesInv, hpdl, hbaud, hlast]
  obtain ⟨hpdl, hbaud, hlast⟩ := h
  cases he with
  | rtupStart slave fc deadline => exact ⟨(timeInRange_iff deadline).1 hi, hbaud, hlast⟩
  | timSetBaud hn => exact ⟨hpdl, fun _ h => Option.some.inj h ▸ hn, hlast⟩
  | timMark => exact ⟨hpdl, hbaud, fun _ h => Option.some.inj h ▸ (timeInRange_iff _).1 hi⟩
  | rtupByte ha =>
    exact kept (ha.agree (e := .pdl) nofun nofun nofun) (ha.agree (e := .baud) nofun nofun nofun)
      (ha.agree (e := .lastAct) nofun nofun nofun)
  | _ => exact ⟨hpdl, hbaud, hlast⟩

/-! ## Steps and runs -/

theorem State.Inv.reset : State.reset.Inv := ⟨rfl, le_rfl, nofun, nofun⟩

/-- Settles O18: the buffer is empty, the deadline zero, and no rate and no activity is stored. -/
theorem resetMeetsTheInvariant : Obligations.ResetMeetsTheInvariant := State.Inv.reset

/-- Settles O19: a step leaves the block alone or makes a change of a well-formed operation, and those keep both parts. -/
theorem stepKeepsTheInvariant : Obligations.StepKeepsTheInvariant := by
  rintro s t ⟨hparser, htimes⟩ h
  obtain rfl | ⟨r, rest, -, rfl⟩ | ⟨i, rest, -, hi, hexec⟩ := step_cases h
  · exact ⟨hparser, htimes⟩
  · exact ⟨hparser, htimes⟩
  · have he := exec_effect hexec
    exact ⟨he.parserInv hparser, he.timesInv hi htimes⟩

/-- A run of a machine whose first step completes. -/
theorem run_succ (M : Host.Core) (k : Nat) {s t : M.State} (h : M.step s = .next t) : M.run (k + 1) s = M.run k t := by
  rw [Host.Core.run, h]

theorem core_run_succ (k : Nat) {s t : State} (h : step s = .next t) :
    (Host.Core.run Sys2Proof.core (k + 1) s : Out) = Host.Core.run Sys2Proof.core k t := run_succ Sys2Proof.core k h

/-- What every step keeps, a run that completes keeps. -/
theorem run_keeps {M : Host.Core} {P : M.State → Prop} (hkeeps : ∀ s t, P s → M.step s = .next t → P t) (k : Nat)
    {s t : M.State} (hs : P s) (h : M.run k s = .next t) : P t := by
  induction k generalizing s with
  | zero =>
    cases h
    exact hs
  | succ k ih =>
    cases hstep : M.step s with
    | next u => exact ih (hkeeps s u hs hstep) (run_succ M k hstep ▸ h)
    | fault f => simp [Host.Core.run, hstep] at h
    | refused r => simp [Host.Core.run, hstep] at h

/-! ## R38 -/

/-- R38 follows clause by clause from what the invariant says in the state the clause names. -/
theorem State.Inv.legal {s : State} (h : s.Inv) : s.toBlock.Legal := by
  obtain ⟨hparser, -, hbaud, -⟩ := h
  refine ⟨hparser.length_le, fun hp => ?slaveId, fun hp => ?functionCode, fun hp => ?readLength, fun hp => ?readPayload,
    fun hp => ?crc, fun hp => ?done, hbaud⟩
  case slaveId => simpa only [Block.ParserInv, hp] using hparser
  case functionCode => simp [hparser.functionCode hp]
  case readLength => simp [hparser.readLength hp]
  case readPayload =>
    obtain ⟨hmin, hmax, -⟩ := hparser.readPayload hp
    exact ⟨hmin, hmax⟩
  case crc =>
    obtain ⟨hmin, hmax, -⟩ := hparser.crc hp
    exact ⟨hmin, hmax⟩
  case done =>
    obtain ⟨⟨fc, rest, hbuf, hfc⟩, hmin, hmax⟩ := hparser.done hp
    exact ⟨hmin, hmax, by rw [hbuf]; rfl, by simpa [hbuf] using hfc⟩

/-- Settles O20: the invariant holds at reset, whatever requests wait, every step keeps it, and R38 follows from it. -/
theorem legalAfterEveryRun : Obligations.LegalAfterEveryRun := by
  intro reqs k t h
  have hreset : State.Inv { State.reset with requests := reqs } := State.Inv.reset
  exact (run_keeps (M := Sys2Proof.core) stepKeepsTheInvariant k hreset h).legal

/-- Settles O8: a step performs the first operation; the others it would leave waiting do not change what it does. -/
theorem queueRunsInIssueOrder : Obligations.QueueRunsInIssueOrder := by
  intro ops
  induction ops with
  | nil => exact fun s _ => rfl
  | cons i ops ih =>
    intro s hops
    obtain ⟨hi, hrest⟩ := List.forall_mem_cons.1 hops
    obtain ⟨t, -, ht, htq, -, hrequests, -⟩ := exec_performs i { s with requests := [] } (ops.map encode)
    have hstep : step { s with requests := (i :: ops).map encode } = .next { t with requests := ops.map encode } :=
      (step_of_decode rfl (decode_encode i hi)).trans htq
    have hnone : ({ t with requests := [] } : State) = t :=
      congrArg (fun q => ({ t with requests := q } : State)) hrequests.symm
    rw [performAll_cons, ht, andThen_next, ← hnone]
    exact (core_run_succ ops.length hstep).trans (ih t hrest)

end Sys2Proof.Machine
end

section
/-! SUPPORT. What an answer depends on (10_state.md R36), the parser included, and operations issued twice
(20_memory.md R59). -/

namespace Sys2Proof.Machine

open Sys2Proof

/-! ## The parser's answers -/

section

variable {s s' : State} (b : Byte)

theorem SameAnswer.failParser {st : Status} : SameAnswer (failParser st s) (failParser st s') := ⟨_, _, rfl, rfl, rfl⟩

/-- R192: the answer to a byte shows the parser's state and, in `DONE`, its buffer. -/
theorem SameAnswer.replyParse (hpst : s.pst = s'.pst) (hpbuf : s.pbuf = s'.pbuf) :
    SameAnswer (replyParse s) (replyParse s') := by
  unfold Machine.replyParse
  rw [hpst, hpbuf]
  exact .ite .reply .reply

theorem inSlaveId_sameAnswer (hpst : s.pst = s'.pst) (hpslave : s.pslave = s'.pslave) (hpbuf : s.pbuf = s'.pbuf) :
    SameAnswer (inSlaveId b s) (inSlaveId b s') := by
  unfold inSlaveId
  rw [hpslave]
  exact .ite (.replyParse rfl rfl) (.replyParse hpst hpbuf)

theorem inFunctionCode_sameAnswer (hpfc : s.pfc = s'.pfc) (hpbuf : s.pbuf = s'.pbuf) :
    SameAnswer (inFunctionCode b s) (inFunctionCode b s') := by
  unfold inFunctionCode
  rw [hpfc, hpbuf]
  refine .ite ?_ (.ite (.replyParse rfl rfl) .failParser)
  obtain h | h | h | h := layoutOf_cases s'.pfc <;> rw [h]
  · exact .replyParse rfl rfl
  · exact .replyParse rfl rfl
  · exact .replyParse rfl rfl
  · exact .failParser

theorem inReadLength_sameAnswer (hpbuf : s.pbuf = s'.pbuf) : SameAnswer (inReadLength b s) (inReadLength b s') := by
  unfold inReadLength
  rw [hpbuf]
  exact .ite (.replyParse rfl rfl) .failParser

theorem inReadPayload_sameAnswer (hpst : s.pst = s'.pst) (hpbuf : s.pbuf = s'.pbuf) (hprem : s.prem = s'.prem) :
    SameAnswer (inReadPayload b s) (inReadPayload b s') := by
  unfold inReadPayload
  rw [hprem, hpbuf]
  exact .ite (.replyParse rfl rfl) (.replyParse hpst rfl)

theorem inCrc_sameAnswer (hpst : s.pst = s'.pst) (hpbuf : s.pbuf = s'.pbuf) (hprem : s.prem = s'.prem) :
    SameAnswer (inCrc b s) (inCrc b s') := by
  unfold inCrc
  rw [hprem, hpbuf]
  exact .ite (.replyParse rfl rfl) (.replyParse hpst rfl)

theorem execRtupByte_sameAnswer (now : Time) (h : ∀ e ∈ reads (.rtupByte b now), s.toBlock.Agree s'.toBlock e) :
    SameAnswer (execRtupByte b now s) (execRtupByte b now s') := by
  simp only [reads, List.forall_mem_cons, Block.Agree] at h
  obtain ⟨hpst, hpslave, hpfc, hpbuf, hprem, hpdl, -⟩ := h
  unfold execRtupByte
  rw [hpdl, hpst]
  refine .ite (.ite .failParser ?_) .raise
  cases s'.pst with
  | slaveId => exact inSlaveId_sameAnswer b hpst hpslave hpbuf
  | functionCode => exact inFunctionCode_sameAnswer b hpfc hpbuf
  | readLength => exact inReadLength_sameAnswer b hpbuf
  | readPayload => exact inReadPayload_sameAnswer b hpst hpbuf hprem
  | crc => exact inCrc_sameAnswer b hpst hpbuf hprem
  | idle | done | failed => exact .raise

theorem execRtupTick_sameAnswer (t : Time) (h : ∀ e ∈ reads (.rtupTick t), s.toBlock.Agree s'.toBlock e) :
    SameAnswer (execRtupTick t s) (execRtupTick t s') := by
  simp only [reads, List.forall_mem_cons, Block.Agree] at h
  obtain ⟨hpst, hpdl, -⟩ := h
  unfold execRtupTick
  rw [hpdl, hpst]
  exact .ite (.ite .failParser .reply) .raise

/-- R36, for every operation. -/
theorem exec_sameAnswer {i : Instr} (h : ∀ e ∈ reads i, s.toBlock.Agree s'.toBlock e) :
    SameAnswer (exec i s) (exec i s') := by
  cases i with
  | rtupByte b now => exact execRtupByte_sameAnswer b now h
  | rtupTick t => exact execRtupTick_sameAnswer t h
  | _ => exact exec_sameAnswer_of_agree (by simp [reads]) h

end

/-- Settles O15: two states that agree in the elements of the row answer alike. -/
theorem answersDependOnlyOnReadElements : Obligations.AnswersDependOnlyOnReadElements := by
  intro i s s' h
  obtain ⟨t, t', ht, ht', hanswer⟩ := exec_sameAnswer h
  exact ⟨t, t', ht, ht', hanswer.symm⟩

/-! ## Operations issued twice -/

theorem Effect.eq_of_changesNothing {b b' : Block} {i : Instr} (he : Effect b i b') (hi : changesNothing i = true) :
    b' = b := by
  cases he with
  | unchanged => rfl
  | _ => simp [changesNothing] at hi

/-- A second issue of the operation leaves the block the first left. -/
def RepeatsItself (i : Instr) (s : State) : Prop :=
  ∃ t u, exec i s = .next t ∧ exec i t = .next u ∧ u.toBlock = t.toBlock

theorem timSetBaud_repeatsItself (n : Nat) (s : State) : RepeatsItself (.timSetBaud n) s := by
  obtain rfl | hn := Nat.eq_zero_or_pos n
  · exact ⟨_, _, exec_timSetBaud_zero s, exec_timSetBaud_zero _, rfl⟩
  · exact ⟨_, _, exec_timSetBaud_pos hn s, exec_timSetBaud_pos hn _, rfl⟩

/-- A time that was refused is refused again, and one that was taken is not earlier than itself. -/
theorem timMark_repeatsItself (t : Time) (s : State) : RepeatsItself (.timMark t) s := by
  by_cases h : ∃ last, s.lastAct = some last ∧ t < last
  · obtain ⟨last, hlast, hearly⟩ := h
    exact ⟨_, _, exec_timMark_early hlast hearly, exec_timMark_early hlast hearly, rfl⟩
  · have haccepted (last : Time) (hlast : s.lastAct = some last) : last ≤ t := not_lt.1 fun hearly =>
      h ⟨last, hlast, hearly⟩
    exact ⟨_, _, exec_timMark_accepted haccepted, exec_timMark_accepted fun _ hl => (Option.some.inj hl).ge, rfl⟩

/-- Settles O16: an operation that makes no change answers the second issue in the same block; the idempotent ones write
values that do not depend on what they overwrite, after a guard that holds again. -/
theorem repeatedIssues : Obligations.RepeatedIssues := by
  refine ⟨fun i s hi => ?pure, fun i s hi => ?idempotent⟩
  case pure =>
    obtain ⟨t, ht⟩ := exec_completes i s
    have hblock := (exec_effect ht).eq_of_changesNothing hi
    obtain ⟨t', u, ht', hu, hanswer⟩ :=
      exec_sameAnswer (i := i) (s := s) (s' := t) fun e _ => hblock ▸ Block.Agree.refl _ e
    cases ht.symm.trans ht'
    exact ⟨t, u, ht, hblock, hu, hanswer⟩
  case idempotent =>
    cases i with
    | crcNew | lrcNew | mbapSetSlave | rtuSetSlave | asciiSetSlave | rtupStart => exact ⟨_, _, rfl, rfl, rfl⟩
    | timSetBaud n => exact timSetBaud_repeatsItself n s
    | timMark t => exact timMark_repeatsItself t s
    | _ => simp [idempotent] at hi

end Sys2Proof.Machine
end

section
/-! SUPPORT. The statuses (60_exceptions.md R251 to R253): a code gives its status back, up to the information it carries. -/

namespace Sys2Proof.Machine

open Sys2Proof

/-- The status without its information. -/
def Status.bare : Status → Status
  | .txidMismatch _ _ => .txidMismatch 0 0
  | st => st

/-- Only `TXID_MISMATCH` carries information. -/
theorem Status.bare_eq_or (st : Status) : st.bare = st ∨ ∃ got expected, st = .txidMismatch got expected := by
  cases st with
  | txidMismatch got expected => exact .inr ⟨got, expected, rfl⟩
  | _ => exact .inl rfl

/-- The table of R251 read from the code to the status. -/
def Status.ofCode (c : Byte) : Status :=
  match c.toNat with
  | 0x01 => .headerLength
  | 0x02 => .invalidLength
  | 0x03 => .checksumMismatch
  | 0x04 => .asciiBoundary
  | 0x05 => .txidMismatch 0 0
  | 0x06 => .protoidMismatch
  | 0x07 => .unitidMismatch
  | 0x08 => .slaveidMismatch
  | 0x09 => .deadlineExceeded
  | 0x0A => .unexpectedFc
  | 0x0B => .lengthMismatch
  | 0x0C => .frameTooShort
  | 0x0D => .hexInvalid
  | 0x80 => .illegalOp
  | 0x81 => .uninit
  | 0x82 => .pduTooLong
  | 0x83 => .operandTooLong
  | 0x84 => .badOperand
  | 0x85 => .unsupportedFc
  | 0x86 => .parserNotActive
  | _ => .ok

theorem Status.ofCode_code (st : Status) : ofCode st.code = st.bare := by
  cases st <;> rfl

/-- A code is 0, an outcome's or a refusal's; the three ranges are disjoint. -/
theorem Status.code_ranges (st : Status) : st = .ok ∧ st.code = 0 ∨
    (st.isOutcome = true ∧ st.isRefusal = false ∧ 0x01 ≤ st.code.toNat ∧ st.code.toNat ≤ 0x0D) ∨
    (st.isOutcome = false ∧ st.isRefusal = true ∧ 0x80 ≤ st.code.toNat ∧ st.code.toNat ≤ 0x86) := by
  cases st <;> simp [isOutcome, isRefusal, code]

/-- Settles O12: statuses with one code are the same without their information, and only `TXID_MISMATCH` carries any. -/
theorem statusCodesDiscriminate : Obligations.StatusCodesDiscriminate := by
  refine ⟨fun st st' h => ?_, Status.code_ranges⟩
  have hbare : st.bare = st'.bare := by rw [← Status.ofCode_code, h, Status.ofCode_code]
  obtain hst | ⟨got, expected, rfl⟩ := st.bare_eq_or <;> obtain hst' | ⟨got', expected', rfl⟩ := st'.bare_eq_or
  · exact .inl (by rw [← hst, hbare, hst'])
  · exact .inr ⟨0, 0, got', expected', hst.symm.trans hbare, rfl⟩
  · exact .inr ⟨got, expected, 0, 0, rfl, hst'.symm.trans hbare.symm⟩
  · exact .inr ⟨got, expected, got', expected', rfl, rfl⟩

end Sys2Proof.Machine
end

section
/-! SUPPORT. How the durations depend on the baud rate (45_timing.md R222 to R224, R234). -/

namespace Sys2Proof.Machine

open Sys2Proof

theorem charUs_strictAnti {B B' : Nat} (hB : 1 ≤ B) (h : B < B') : charUs B' < charUs B :=
  div_lt_div_of_pos_left (by norm_num) (baud_pos hB) (Nat.cast_lt.2 h)

theorem t15Us_strictAnti {B B' : Nat} (hB : 1 ≤ B) (h : B < B') : t15Us B' < t15Us B :=
  mul_lt_mul_of_pos_left (charUs_strictAnti hB h) (by norm_num)

/-- At the knee the formula gives 35000000 / 19200, which is between 1822 and 1823. -/
theorem t35Us_knee : t35Us 19200 = 1823 := by
  have hceil : ⌈35000000 / ((19200 : Nat) : Rat)⌉ = 1823 := by
    rw [Int.ceil_eq_iff]
    norm_num
  rw [t35Us_upto le_rfl, hceil]
  norm_num

/-- T3.5 is never below its fixed value: up to the knee, T3.5 times the rate is at least 35·10⁶, and 1750 times the rate
is at most 33.6·10⁶. -/
theorem t35Fixed_le_t35Us {B : Nat} (hB : 1 ≤ B) : t35Fixed ≤ t35Us B := by
  obtain hknee | hknee := le_or_gt B baudKnee
  · have hrate : (B : Rat) ≤ 19200 := by exact_mod_cast hknee
    refine le_of_mul_le_mul_right ?_ (baud_pos hB)
    calc t35Fixed * (B : Rat)
      _ ≤ 35000000 := by linarith
      _ ≤ t35Us B * B := le_t35Us_mul hB hknee
  · exact (t35Us_above hknee).ge

theorem t35Us_antitone {B B' : Nat} (hB : 1 ≤ B) (h : B ≤ B') : t35Us B' ≤ t35Us B := by
  obtain hknee | hknee := le_or_gt B' baudKnee
  · have hquot : 35000000 / (B' : Rat) ≤ 35000000 / (B : Rat) :=
      div_le_div_of_nonneg_left (by norm_num) (baud_pos hB) (Nat.cast_le.2 h)
    rw [t35Us_upto hknee, t35Us_upto (h.trans hknee)]
    exact Int.cast_le.2 (Int.ceil_mono hquot)
  · rw [t35Us_above hknee]
    exact t35Fixed_le_t35Us hB

/-- Settles O59: the bound on the wait holds because the time given is not before the last activity. -/
theorem timingProperties : Obligations.TimingProperties := by
  refine ⟨fun B B' hB h => ⟨charUs_strictAnti hB h, t15Us_strictAnti hB h⟩, fun B B' => t35Us_antitone, t35Us_knee,
    fun B => t35Us_above, fun B hB => ⟨t15Us_lt_t35Us hB, t35Fixed_le_t35Us hB⟩, ?_⟩
  intro t B last s u w hbaud hB hlast ht h hu
  have hpos : 0 ≤ t35Us B := le_trans (by norm_num) (t35Fixed_le_t35Us hB)
  cases reply_next_iff.1 ((exec_timPresend_activity hbaud t hlast).symm.trans h)
  cases hu
  exact max_le (by linarith) (by linarith)

end Sys2Proof.Machine
end

section
/-! SUPPORT. Feeding the RTU parser (44_rtu_parser.md R195, R207): the bytes it takes one after another, the frames it
completes, and the operations that feed them. -/

namespace Sys2Proof.Machine

open Sys2Proof

/-! ## Bytes taken one after another -/

/-- The bytes of a string, each in time, take the parser from one block to another. -/
inductive Block.AcceptsAll : Block → Bytes → Block → Prop
  | nil (b : Block) : AcceptsAll b [] b
  | cons {b b₁ b₂ : Block} {x : Byte} {S : Bytes} (h : b.Accepts x b₁) (hrest : AcceptsAll b₁ S b₂) :
    AcceptsAll b (x :: S) b₂

/-- Before each byte that is still to be taken the parser is working. -/
theorem Block.AcceptsAll.split {b b' : Block} {S : Bytes} (h : b.AcceptsAll S b') (k : Nat) (hk : k < S.length) :
    ∃ b₁, b.AcceptsAll (S.take k) b₁ ∧ b₁.pst.working = true := by
  induction h generalizing k with
  | nil => exact absurd hk (Nat.not_lt_zero k)
  | @cons b _ _ _ _ h _ ih =>
    cases k with
    | zero => exact ⟨b, .nil b, h.working⟩
    | succ k =>
      obtain ⟨b₁, hb₁, hw⟩ := ih k (Nat.lt_of_succ_lt_succ hk)
      exact ⟨b₁, .cons h hb₁, hw⟩

theorem Block.acceptsAll_noise {b : Block} (hp : b.pst = .slaveId) {noise : Bytes} (h : ∀ c ∈ noise, c ≠ b.pslave) :
    b.AcceptsAll noise b := by
  induction noise with
  | nil => exact .nil b
  | cons c noise ih =>
    obtain ⟨hc, hrest⟩ := List.forall_mem_cons.1 h
    exact .cons (.noise hp hc) (ih hrest)

/-! ## The operations that feed them -/

/-- In `DONE` the host has the frame: the last answer showed it (R192). -/
def State.ShowsFrame (s : State) : Prop := s.pst = .done → s.answer = some ⟨.ok, .parsed s.pbuf⟩

theorem State.ShowsFrame.of_ne_done {s : State} (h : s.pst ≠ .done) : s.ShowsFrame := fun hp => absurd hp h

theorem replyParse_shows (s : State) : ∃ t, replyParse s = .next t ∧ t.toBlock = s.toBlock ∧ t.ShowsFrame := by
  by_cases h : s.pst = .done
  · exact ⟨_, replyParse_done h, rfl, fun _ => rfl⟩
  · exact ⟨_, replyParse_parsing h, rfl, .of_ne_done h⟩

/-- Feeding a string of bytes the parser takes, each in time, does what taking them does. -/
theorem performAll_feed {S : Bytes} {times : List Time} {s : State} {b' : Block} (h : s.toBlock.AcceptsAll S b')
    (hlen : times.length = S.length) (htimes : ∀ t ∈ times, t ≤ s.pdl) (hs : s.ShowsFrame) :
    ∃ t, performAll (feed S times) s = .next t ∧ t.toBlock = b' ∧ t.ShowsFrame := by
  generalize hb : s.toBlock = b at h
  induction h generalizing s times with
  | nil => exact ⟨s, rfl, hb, hs⟩
  | @cons b b₁ _ _ _ h _ ih =>
    obtain ⟨now, times, rfl⟩ := List.exists_cons_of_length_eq_add_one hlen
    obtain ⟨hnow, htimes⟩ := List.forall_mem_cons.1 htimes
    subst hb
    obtain ⟨u, hu, hblock, hshows⟩ := replyParse_shows { s with toBlock := b₁ }
    have hpdl : u.pdl = s.pdl := (congrArg Block.pdl hblock).trans (h.agree (e := .pdl) nofun nofun nofun)
    obtain ⟨t, ht, hb', hshows'⟩ := ih (Nat.succ.inj hlen) (hpdl ▸ htimes) hshows hblock
    refine ⟨t, ?_, hb', hshows'⟩
    rw [← ht]
    exact congrArg (andThen · _) ((h.execRtupByte hnow).trans hu)

theorem feed_take (S : Bytes) (times : List Time) (k : Nat) :
    (feed S times).take k = feed (S.take k) (times.take k) := List.take_zipWith

/-- Settles O52: noise is taken in the block it leaves, and that block is still in `SLAVE_ID`. -/
theorem rtupDiscardsNoise : Obligations.RtupDiscardsNoise := by
  intro noise times b now s hp hlen hnoise htimes
  obtain ⟨u, hu, hblock, -⟩ :=
    performAll_feed (Block.acceptsAll_noise hp hnoise) hlen htimes (.of_ne_done (by simp [hp]))
  refine ⟨u, hu, hblock, fun hb hnow => ?_⟩
  rw [← hblock] at hp hb hnow
  exact (execRtupByte_slaveId b hp hnow).trans (inSlaveId_own hb)

/-! ## Bytes that complete a frame -/

/-- Taking the bytes `S` appends them to the buffer and ends in `DONE`. -/
def Block.Completes (b : Block) (S : Bytes) : Prop :=
  b.AcceptsAll S { b with pbuf := b.pbuf ++ S, prem := 0, pst := .done }

namespace Block.Completes

variable {b : Block} {x : Byte} {S : Bytes}

/-- A byte that is appended, then bytes that complete the frame. -/
theorem cons {n : Nat} {p : PState} (h : b.Accepts x { b with pbuf := b.pbuf ++ [x], prem := n, pst := p })
    (hrest : Completes { b with pbuf := b.pbuf ++ [x], prem := n, pst := p } S) : b.Completes (x :: S) := by
  have hall := AcceptsAll.cons h hrest
  rwa [List.append_assoc, List.singleton_append] at hall

/-- The second CRC byte. -/
theorem crcEnd (hp : b.pst = .crc) (h : b.prem ≤ 1) : b.Completes [x] := AcceptsAll.cons (.crcEnd hp h) (.nil _)

theorem crcBytes (hp : b.pst = .crc) (h : b.prem = 2) (c1 c2 : Byte) : b.Completes [c1, c2] :=
  .cons (.crc hp (by omega)) (.crcEnd hp (by simp [h]))

/-- A payload of the expected length, and the CRC bytes. -/
theorem payload {p : Bytes} (hp : b.pst = .readPayload) (h : b.prem = p.length) (hne : p ≠ []) (c1 c2 : Byte) :
    b.Completes (p ++ [c1, c2]) := by
  induction p generalizing b with
  | nil => exact absurd rfl hne
  | cons x p ih =>
    rw [List.length_cons] at h
    cases p with
    | nil => exact .cons (.payloadEnd hp h.le) (.crcBytes rfl rfl c1 c2)
    | cons y p =>
      rw [List.length_cons] at h
      exact .cons (.payload hp (by omega)) (ih hp (by simp [h]) (List.cons_ne_nil y p))

/-- A function code and a payload of its layout (R90), and the CRC bytes. -/
theorem functionCode {p : Bytes} (hp : b.pst = .functionCode) (h : PayloadOf b.pfc p) (c1 c2 : Byte) :
    b.Completes (b.pfc :: p ++ [c1, c2]) := by
  obtain ⟨hfc, L, rest, rfl, hmin, hmax, hrest⟩ | ⟨hfc, hlen⟩ | ⟨hfc, hlen⟩ := h
  · have hne : rest ≠ [] := List.ne_nil_of_length_pos (by omega)
    exact .cons (.counted hp rfl (layoutOf_readFamily hfc))
      (.cons (.count rfl hmin hmax) (.payload rfl hrest.symm hne c1 c2))
  · have hne : p ≠ [] := List.ne_nil_of_length_pos (by omega)
    exact .cons (.fixed hp rfl (layoutOf_writeFamily hfc)) (.payload rfl hlen.symm hne c1 c2)
  · have hne : p ≠ [] := List.ne_nil_of_length_pos (by omega)
    have hlayout : layoutOf b.pfc = some (.fixed 6) := by rw [hfc]; exact layoutOf_maskWrite
    exact .cons (.fixed hp rfl hlayout) (.payload rfl hlen.symm hne c1 c2)

/-- The exception form: the code with its top bit set, which differs from the code, one byte, and the CRC bytes. -/
theorem exceptionForm (hp : b.pst = .functionCode) (h : b.pfc.toNat < 0x80) (e c1 c2 : Byte) :
    b.Completes [b.pfc ||| 0x80, e, c1, c2] := by
  have hne : b.pfc ||| 0x80 ≠ b.pfc := by
    intro heq
    have hle : 0x80 ≤ (b.pfc ||| 0x80).toNat := BitVec.toNat_or .. ▸ Nat.right_le_or
    rw [heq] at hle
    omega
  exact .cons (.exception hp hne rfl) (.payload (p := [e]) rfl rfl (List.cons_ne_nil e []) c1 c2)

end Block.Completes

/-! ## A parse from its start -/

/-- The state `RTUP.START` leaves (R191). -/
def parseStarted (slave fc : Byte) (deadline : Time) (s : State) : State :=
  ({ s with pslave := slave, pfc := fc, pdl := deadline, pbuf := [], prem := 0, pst := .slaveId } : State).answered
    ⟨.ok, .none⟩

section

variable {slave fc : Byte} {deadline : Time} {s : State} {S : Bytes} {times : List Time}

theorem performAll_rtupStart (ops : List Instr) :
    performAll (.rtupStart slave fc deadline :: ops) s = performAll ops (parseStarted slave fc deadline s) := rfl

/-- The slave identifier, and bytes that complete the frame after it. -/
theorem parseStarted_completes (h : ({ (parseStarted slave fc deadline s).toBlock with
      pbuf := [slave], pst := .functionCode } : Block).Completes S) :
    (parseStarted slave fc deadline s).toBlock.Completes (slave :: S) := .cons (.own rfl rfl) h

theorem parse_done (h : (parseStarted slave fc deadline s).toBlock.Completes S) (hlen : times.length = S.length)
    (htimes : ∀ t ∈ times, t ≤ deadline) :
    ∃ t : State, performAll (.rtupStart slave fc deadline :: feed S times) s = .next t ∧ t.pst = .done ∧
      t.answer = some ⟨.ok, .parsed S⟩ := by
  obtain ⟨t, ht, hblock, hshows⟩ := performAll_feed h hlen htimes (.of_ne_done nofun)
  have hpst : t.pst = .done := by rw [hblock]
  have hpbuf : t.pbuf = S := by rw [hblock]; rfl
  exact ⟨t, ht, hpst, hpbuf ▸ hshows hpst⟩

theorem parse_working (h : (parseStarted slave fc deadline s).toBlock.Completes S) (hlen : times.length = S.length)
    (htimes : ∀ t ∈ times, t ≤ deadline) {k : Nat} (hk : k < S.length) :
    ∃ u : State, performAll (.rtupStart slave fc deadline :: (feed S times).take k) s = .next u ∧
      u.pst.working = true := by
  obtain ⟨b₁, hb₁, hw⟩ := h.split k hk
  rw [feed_take, performAll_rtupStart]
  obtain ⟨u, hu, hblock, -⟩ := performAll_feed (times := times.take k) hb₁ (by simp [hlen])
    (fun t ht => htimes t (List.mem_of_mem_take ht)) (.of_ne_done nofun)
  exact ⟨u, hu, hblock ▸ hw⟩

end

/-- Settles O53: the bytes of the frame complete it, and before each of them the parser is working. -/
theorem rtupParsesWholeResponses : Obligations.RtupParsesWholeResponses := by
  refine ⟨fun slave fc c1 c2 p times deadline s hpayload hlen htimes => ?layout,
    fun slave fc e c1 c2 times deadline s hfc hlen htimes => ?exception⟩
  case layout =>
    have hframe : (parseStarted slave fc deadline s).toBlock.Completes ([slave, fc] ++ p ++ [c1, c2]) :=
      parseStarted_completes (.functionCode rfl hpayload c1 c2)
    have hsize : ([slave, fc] ++ p ++ [c1, c2]).length = p.length + 4 := by simp
    rw [← hsize] at hlen ⊢
    exact ⟨parse_done hframe hlen htimes, fun k hk => parse_working hframe hlen htimes hk⟩
  case exception =>
    exact parse_done (parseStarted_completes (.exceptionForm rfl hfc e c1 c2)) hlen htimes

end Sys2Proof.Machine
end

section
/-! SUPPORT. Every status of the table of R256 (60_exceptions.md section 1): for each operation and status an example,
operands and a state on which the model evaluates to it. -/

namespace Sys2Proof.Machine

open Sys2Proof

/-- The code of the status an operation answered. -/
def answeredCode : Out → Option Byte
  | .next t => t.answer.map (·.status.code)
  | .fault _ => none
  | .refused _ => none

theorem answeredCode_eq_some {o : Out} {c : Byte} (h : answeredCode o = some c) :
    ∃ t a, o = .next t ∧ t.answer = some a ∧ a.status.code = c := by
  cases o with
  | next t =>
    obtain ⟨a, ha, hc⟩ := Option.map_eq_some_iff.1 h
    exact ⟨t, a, rfl, ha, hc⟩
  | fault f => cases h
  | refused r => cases h

/-- An operation with the selector of `i` answers, for some operands and state, a status with the code `c`. -/
def Returned (i : Instr) (c : Byte) : Prop :=
  ∃ (i' : Instr) (s t : State) (a : Answer), (encode i').op = (encode i).op ∧ exec i' s = .next t ∧
    t.answer = some a ∧ a.status.code = c

/-- An example, evaluated. -/
theorem Returned.of_example {i : Instr} {c : Byte} (i' : Instr) (s : State)
    (h : answeredCode (exec i' s) = some c := by decide +kernel) (hop : (encode i').op = (encode i).op := by rfl) :
    Returned i c := by
  obtain ⟨t, a, ht, ha, hc⟩ := answeredCode_eq_some h
  exact ⟨i', s, t, a, hop, ht, ha, hc⟩

/-- A string of `n` zero bytes: too long or too short by its length, and with no hexadecimal digit in it. -/
def zeroBytes (n : Nat) : Bytes := List.replicate n 0

/-- Every status in the row of an operation has an example; the rows are in the order the operations test. -/
theorem returned_of_mem_statusCodes (i : Instr) : ∀ c ∈ statusCodes i, Returned i c := by
  cases i with simp only [statusCodes, List.forall_mem_cons, List.not_mem_nil, false_implies, implies_true, and_true]
  | crcPush => exact .of_example (.crcPush []) State.reset
  | crcValue => exact .of_example .crcValue State.reset
  | lrcPush => exact .of_example (.lrcPush []) State.reset
  | lrcValue => exact .of_example .lrcValue State.reset
  | mbapEncode =>
    exact ⟨.of_example (.mbapEncode 0 (zeroBytes 253)) State.reset, .of_example (.mbapEncode 0 []) State.reset⟩
  | mbapDecode =>
    exact ⟨.of_example (.mbapDecode (zeroBytes 261)) State.reset, .of_example (.mbapDecode []) State.reset,
      .of_example (.mbapDecode (zeroBytes 8)) State.reset⟩
  | mbapVerify =>
    exact ⟨.of_example (.mbapVerify [] (zeroBytes 261)) State.reset, .of_example (.mbapVerify [] []) State.reset,
      .of_example (.mbapVerify (zeroBytes 7) []) State.reset,
      .of_example (.mbapVerify (zeroBytes 7) [0, 1, 0, 0, 0, 0, 0]) State.reset,
      .of_example (.mbapVerify (zeroBytes 7) [0, 0, 0, 1, 0, 0, 0]) State.reset,
      .of_example (.mbapVerify (zeroBytes 7) [0, 0, 0, 0, 0, 0, 1]) State.reset⟩
  | mbapHdr => exact ⟨.of_example (.mbapHdr []) State.reset, .of_example (.mbapHdr (zeroBytes 7)) State.reset⟩
  | rtuEncode =>
    exact ⟨.of_example (.rtuEncode 0 (zeroBytes 253)) State.reset, .of_example (.rtuEncode 0 []) State.reset⟩
  | rtuDecode =>
    exact ⟨.of_example (.rtuDecode (zeroBytes 257)) State.reset, .of_example (.rtuDecode []) State.reset,
      .of_example (.rtuDecode (zeroBytes 4)) State.reset⟩
  | rtuVerify =>
    exact ⟨.of_example (.rtuVerify [] (zeroBytes 257)) State.reset, .of_example (.rtuVerify [] []) State.reset,
      .of_example (.rtuVerify [0] []) State.reset, .of_example (.rtuVerify [1] (zeroBytes 4)) State.reset⟩
  | asciiEncode =>
    exact ⟨.of_example (.asciiEncode 0 (zeroBytes 253)) State.reset, .of_example (.asciiEncode 0 []) State.reset⟩
  | asciiDecode =>
    exact ⟨.of_example (.asciiDecode (zeroBytes 514)) State.reset, .of_example (.asciiDecode []) State.reset,
      .of_example (.asciiDecode (zeroBytes 10)) State.reset, .of_example (.asciiDecode (zeroBytes 9)) State.reset,
      .of_example (.asciiDecode ([charColon] ++ hexOf [0, 0, 1] ++ [charCr, charLf])) State.reset⟩
  | asciiVerify =>
    exact ⟨.of_example (.asciiVerify [] (zeroBytes 514)) State.reset, .of_example (.asciiVerify [] []) State.reset,
      .of_example (.asciiVerify (zeroBytes 3) []) State.reset,
      .of_example (.asciiVerify (zeroBytes 3) (zeroBytes 9)) State.reset,
      .of_example (.asciiVerify (zeroBytes 3) ([charColon] ++ hexOf [0, 0, 0] ++ [charCr, charLf])) State.reset⟩
  | rtupByte =>
    exact ⟨.of_example (.rtupByte 0 0) State.reset, .of_example (.rtupByte 0 1) { State.reset with pst := .slaveId },
      .of_example (.rtupByte 0 0) { State.reset with pst := .functionCode },
      .of_example (.rtupByte 1 0) { State.reset with pst := .functionCode },
      .of_example (.rtupByte 0 0) { State.reset with pst := .readLength }⟩
  | rtupTick =>
    exact ⟨.of_example (.rtupTick 0) State.reset, .of_example (.rtupTick 1) { State.reset with pst := .slaveId }⟩
  | timSetBaud => exact .of_example (.timSetBaud 0) State.reset
  | timMark => exact .of_example (.timMark 0) { State.reset with lastAct := some 1 }
  | timChar => exact .of_example .timChar State.reset
  | timT35 => exact .of_example .timT35 State.reset
  | timPresend => exact .of_example (.timPresend 0) State.reset
  | timPostsend => exact .of_example (.timPostsend 0) State.reset
  | timRxtime => exact .of_example (.timRxtime 0) State.reset
  | timGap => exact .of_example (.timGap 0) State.reset

/-- Settles O11: the example for each status of each row. -/
theorem everyListedStatusIsReturned : Obligations.EveryListedStatusIsReturned := returned_of_mem_statusCodes

end Sys2Proof.Machine
end
